-- ==== Sys2Proof/Word.lean ====
section
/-! DEFINITION. The word types of NPS-CORE (R10, R11, R13). -/

namespace Sys2Proof

/-- An octet: one cell of the buffer (R11). -/
abbrev Octet := BitVec 8

/-- A word16: the unit the checksum engine sums (R13). -/
abbrev Word16 := BitVec 16

/-- A word32: four octets; the width of a host data word (R9, R13). -/
abbrev Word32 := BitVec 32

/-- A host offset, 17 bits (R9, R50). -/
abbrev HostOffset := BitVec 17

/-- An octet index of the buffer window, `off[15:0]` (R87). -/
abbrev BufIndex := BitVec 16

/-- The transaction word `T`, 51 bits (R87). -/
abbrev TransactionWord := BitVec 51

/-- `hi ‖ lo` on nibbles (R11). -/
def cat4 (hi lo : BitVec 4) : Octet := (hi ++ lo).cast rfl

/-- `hi ‖ lo` on octets (R11). -/
def cat8 (hi lo : Octet) : Word16 := (hi ++ lo).cast rfl

/-- `hi ‖ lo` on word16s (R11). -/
def cat16 (hi lo : Word16) : Word32 := (hi ++ lo).cast rfl

end Sys2Proof
end

