-- ==== Sys2Proof/Syntax.lean ====
section
/-! DEFINITION. The operations of the block: one constructor per row of spec/opcode_table.json (R90). -/

namespace Sys2Proof

/-- The eleven operations, with `WRF` and `RDF` spread over the eight field registers (R90).
The ignored data of a read and `data[31:8]` of an octet write (R87) are no operands. -/
inductive Instr where
  /-- `PACK` (R110). -/
  | pack
  /-- `CKSUM h`: `h` counts word32s of header (R146). -/
  | cksum (h : BitVec 4)
  /-- `WRF.VER v` (R172). -/
  | wrfVer (v : Word32)
  /-- `WRF.IHL v` (R173). -/
  | wrfIhl (v : Word32)
  /-- `WRF.TLEN v` (R174). -/
  | wrfTlen (v : Word32)
  /-- `WRF.ID v` (R175). -/
  | wrfId (v : Word32)
  /-- `WRF.TTL v` (R176). -/
  | wrfTtl (v : Word32)
  /-- `WRF.PROTO v` (R177). -/
  | wrfProto (v : Word32)
  /-- `WRF.SRC v` (R178). -/
  | wrfSrc (v : Word32)
  /-- `WRF.DST v` (R179). -/
  | wrfDst (v : Word32)
  /-- `RDF.VER` (R181). -/
  | rdfVer
  /-- `RDF.IHL` (R182). -/
  | rdfIhl
  /-- `RDF.TLEN` (R183). -/
  | rdfTlen
  /-- `RDF.ID` (R184). -/
  | rdfId
  /-- `RDF.TTL` (R185). -/
  | rdfTtl
  /-- `RDF.PROTO` (R186). -/
  | rdfProto
  /-- `RDF.SRC` (R187). -/
  | rdfSrc
  /-- `RDF.DST` (R188). -/
  | rdfDst
  /-- `RDSTATUS` (R189). -/
  | rdstatus
  /-- `RDCSUM` (R190). -/
  | rdcsum
  /-- `RDBUFLEN` (R191). -/
  | rdbuflen
  /-- `LDB i` (R192). -/
  | ldb (i : BufIndex)
  /-- `STB i, v` (R193). -/
  | stb (i : BufIndex) (v : Octet)
  /-- `LDW i` (R194). -/
  | ldw (i : BufIndex)
  /-- `STW i, v` (R195). -/
  | stw (i : BufIndex) (v : Word32)
  deriving DecidableEq, Repr

/-- The eight logical fields, in field-index order (R21, R88). -/
inductive Field where
  | ver | ihl | tlen | id | ttl | proto | src | dst
  deriving DecidableEq, Repr

/-- `WRF f, v` (R171). -/
def Instr.wrf : Field → Word32 → Instr
  | .ver, v => .wrfVer v
  | .ihl, v => .wrfIhl v
  | .tlen, v => .wrfTlen v
  | .id, v => .wrfId v
  | .ttl, v => .wrfTtl v
  | .proto, v => .wrfProto v
  | .src, v => .wrfSrc v
  | .dst, v => .wrfDst v

/-- `RDF f` (R180). -/
def Instr.rdf : Field → Instr
  | .ver => .rdfVer
  | .ihl => .rdfIhl
  | .tlen => .rdfTlen
  | .id => .rdfId
  | .ttl => .rdfTtl
  | .proto => .rdfProto
  | .src => .rdfSrc
  | .dst => .rdfDst

/-- Is the operation a read operation (R170: `RDF`, `RDSTATUS`, `RDCSUM`, `RDBUFLEN`, `LDB`, `LDW`) or a write
operation (`WRF`, `STB`, `STW`, `PACK`, `CKSUM`)? -/
def Instr.isRead : Instr → Bool
  | .pack => false
  | .cksum _ => false
  | .wrfVer _ => false
  | .wrfIhl _ => false
  | .wrfTlen _ => false
  | .wrfId _ => false
  | .wrfTtl _ => false
  | .wrfProto _ => false
  | .wrfSrc _ => false
  | .wrfDst _ => false
  | .rdfVer => true
  | .rdfIhl => true
  | .rdfTlen => true
  | .rdfId => true
  | .rdfTtl => true
  | .rdfProto => true
  | .rdfSrc => true
  | .rdfDst => true
  | .rdstatus => true
  | .rdcsum => true
  | .rdbuflen => true
  | .ldb _ => true
  | .stb _ _ => false
  | .ldw _ => true
  | .stw _ _ => false

end Sys2Proof
end

