-- ==== Sys2Proof/WellFormed.lean ====
section
/-! DEFINITION. Which instruction terms the encoding admits. -/

namespace Sys2Proof

/-- A word32 access lies at a multiple of 4 (R57). -/
def aligned4 (i : BufIndex) : Bool := i.toNat % 4 == 0

/-- Well-formed instructions: `LDW` and `STW` at a multiple of 4 (R194, R195); every other operand takes every
value of its width. -/
def Instr.wf : Instr → Bool
  | .pack => true
  | .cksum _ => true
  | .wrfVer _ => true
  | .wrfIhl _ => true
  | .wrfTlen _ => true
  | .wrfId _ => true
  | .wrfTtl _ => true
  | .wrfProto _ => true
  | .wrfSrc _ => true
  | .wrfDst _ => true
  | .rdfVer => true
  | .rdfIhl => true
  | .rdfTlen => true
  | .rdfId => true
  | .rdfTtl => true
  | .rdfProto => true
  | .rdfSrc => true
  | .rdfDst => true
  | .rdstatus => true
  | .rdcsum => true
  | .rdbuflen => true
  | .ldb _ => true
  | .stb _ _ => true
  | .ldw i => aligned4 i
  | .stw i _ => aligned4 i

end Sys2Proof
end

