-- ==== Sys2Proof/Decode.lean ====
section
/-! DEFINITION. The transaction word, its decoder (total, rejecting by name) and its encoder (R87 to R92). -/

namespace Sys2Proof

/-- `dir`: bit 50 of the transaction word (R87). -/
inductive Dir where
  | read | write
  deriving DecidableEq, Repr

/-- `size`: bit 49 of the transaction word (R87). -/
inductive Size where
  | octet | word32
  deriving DecidableEq, Repr

/-- The four fields of a transaction word as a record (R87). -/
structure Transaction where
  dir : Dir
  size : Size
  off : HostOffset
  data : Word32
  deriving DecidableEq, Repr

/-- The two faults the decoder raises (R89); `FaultCode` in Machine/Flags.lean gives their codes. -/
inductive DecodeFault where
  /-- The address map does not allow the access (R91 (b), R214 (a) to (e)). -/
  | accessFault
  /-- The data written to `CMD` is no command word (R91 (a), R213). -/
  | illegalCommand
  deriving DecidableEq, Repr

/-- What a transaction word decodes to: one operation or one fault (R89). -/
inductive Decoded where
  | op (i : Instr)
  | fault (c : DecodeFault)
  deriving DecidableEq, Repr

/-- The transaction word as its four fields (R87). -/
def splitWord (T : TransactionWord) : Transaction where
  dir := if T.getLsbD 50 then .write else .read
  size := if T.getLsbD 49 then .word32 else .octet
  off := T.extractLsb' 32 17
  data := T.extractLsb' 0 32

/-- The bit that stands for a direction (R87). -/
def dirBit : Dir → Nat
  | .read => 0
  | .write => 1

/-- The bit that stands for an access size (R87). -/
def sizeBit : Size → Nat
  | .octet => 0
  | .word32 => 1

/-- The four fields as a transaction word: `dir x 2^50 + size x 2^49 + off x 2^32 + data` (R87, R93). -/
def joinWord (t : Transaction) : TransactionWord :=
  BitVec.ofNat 51
    (dirBit t.dir * 2 ^ 50 + sizeBit t.size * 2 ^ 49 + t.off.toNat * 2 ^ 32 + t.data.toNat)

/-- The register a field index stands for (R88). -/
def fieldOfIndex (f : BitVec 3) : Field :=
  match f.toNat with
  | 0 => .ver
  | 1 => .ihl
  | 2 => .tlen
  | 3 => .id
  | 4 => .ttl
  | 5 => .proto
  | 6 => .src
  | _ => .dst

/-- The index of a field register (R88). -/
def indexOfField : Field → Nat
  | .ver => 0
  | .ihl => 1
  | .tlen => 2
  | .id => 3
  | .ttl => 4
  | .proto => 5
  | .src => 6
  | .dst => 7

/-- A command word: bits 31:8 reserved, `H` in 7:4, `OP` in 3:0 (R88, R89). -/
def decodeCommand (data : Word32) : Decoded :=
  if data.extractLsb' 8 24 ≠ 0 then .fault .illegalCommand
  else if data.extractLsb' 0 4 = 1 then
    if data.extractLsb' 4 4 ≠ 0 then .fault .illegalCommand else .op .pack
  else if data.extractLsb' 0 4 = 2 then .op (.cksum (data.extractLsb' 4 4))
  else .fault .illegalCommand

/-- A location that may only be read. -/
def readOnly (dir : Dir) (i : Instr) : Decoded :=
  match dir with
  | .read => .op i
  | .write => .fault .accessFault

/-- An aligned word32 access to the register window, by offset (R51, R89). -/
def decodeRegister (t : Transaction) : Decoded :=
  if t.off = 0x00000 then
    match t.dir with
    | .read => .fault .accessFault
    | .write => decodeCommand t.data
  else if t.off = 0x00004 then readOnly t.dir .rdstatus
  else if t.off = 0x00008 then readOnly t.dir .rdcsum
  else if t.off = 0x0000C then readOnly t.dir .rdbuflen
  else if 0x00020 ≤ t.off.toNat ∧ t.off.toNat ≤ 0x0003C then
    match t.dir with
    | .read => .op (.rdf (fieldOfIndex (t.off.extractLsb' 2 3)))
    | .write => .op (.wrf (fieldOfIndex (t.off.extractLsb' 2 3)) t.data)
  else .fault .accessFault

/-- An access to the buffer window; the index is `off[15:0]` (R87, R89). -/
def decodeBuffer (t : Transaction) : Decoded :=
  let i : BufIndex := t.off.extractLsb' 0 16
  match t.size, t.dir with
  | .octet, .read => .op (.ldb i)
  | .octet, .write => .op (.stb i (t.data.extractLsb' 0 8))
  | .word32, .read => if i.extractLsb' 0 2 ≠ 0 then .fault .accessFault else .op (.ldw i)
  | .word32, .write => if i.extractLsb' 0 2 ≠ 0 then .fault .accessFault else .op (.stw i t.data)

/-- The decoding procedure on the four fields, its tests in the order of R89. -/
def decodeTransaction (t : Transaction) : Decoded :=
  if t.off.getLsbD 16 = false then
    if t.size = .octet then .fault .accessFault
    else if t.off.extractLsb' 0 2 ≠ 0 then .fault .accessFault
    else decodeRegister t
  else decodeBuffer t

/-- The decoder: total on all 2^51 transaction words (R89). -/
def decode (T : TransactionWord) : Decoded := decodeTransaction (splitWord T)

/-- The host offset of a field register, `0x20 + 4f` (R51). -/
def fieldOffset (f : Field) : HostOffset := BitVec.ofNat 17 (0x20 + 4 * indexOfField f)

/-- The host offset of buffer index `i`, `0x10000 + i` (R51, R57). -/
def bufOffset (i : BufIndex) : HostOffset := BitVec.ofNat 17 (0x10000 + i.toNat)

/-- The transaction that writes a command word: `data = 16h + op` (R88, R93). -/
def commandTransaction (h : BitVec 4) (op : Nat) : Transaction :=
  ⟨.write, .word32, 0, BitVec.ofNat 32 (16 * h.toNat + op)⟩

/-- The transaction that asks for an operation, in its canonical form: ignored data is zero (R87, R93). -/
def transactionOf : Instr → Transaction
  | .pack => commandTransaction 0 1
  | .cksum h => commandTransaction h 2
  | .wrfVer v => ⟨.write, .word32, fieldOffset .ver, v⟩
  | .wrfIhl v => ⟨.write, .word32, fieldOffset .ihl, v⟩
  | .wrfTlen v => ⟨.write, .word32, fieldOffset .tlen, v⟩
  | .wrfId v => ⟨.write, .word32, fieldOffset .id, v⟩
  | .wrfTtl v => ⟨.write, .word32, fieldOffset .ttl, v⟩
  | .wrfProto v => ⟨.write, .word32, fieldOffset .proto, v⟩
  | .wrfSrc v => ⟨.write, .word32, fieldOffset .src, v⟩
  | .wrfDst v => ⟨.write, .word32, fieldOffset .dst, v⟩
  | .rdfVer => ⟨.read, .word32, fieldOffset .ver, 0⟩
  | .rdfIhl => ⟨.read, .word32, fieldOffset .ihl, 0⟩
  | .rdfTlen => ⟨.read, .word32, fieldOffset .tlen, 0⟩
  | .rdfId => ⟨.read, .word32, fieldOffset .id, 0⟩
  | .rdfTtl => ⟨.read, .word32, fieldOffset .ttl, 0⟩
  | .rdfProto => ⟨.read, .word32, fieldOffset .proto, 0⟩
  | .rdfSrc => ⟨.read, .word32, fieldOffset .src, 0⟩
  | .rdfDst => ⟨.read, .word32, fieldOffset .dst, 0⟩
  | .rdstatus => ⟨.read, .word32, 0x00004, 0⟩
  | .rdcsum => ⟨.read, .word32, 0x00008, 0⟩
  | .rdbuflen => ⟨.read, .word32, 0x0000C, 0⟩
  | .ldb i => ⟨.read, .octet, bufOffset i, 0⟩
  | .stb i v => ⟨.write, .octet, bufOffset i, v.zeroExtend 32⟩
  | .ldw i => ⟨.read, .word32, bufOffset i, 0⟩
  | .stw i v => ⟨.write, .word32, bufOffset i, v⟩

/-- The encoder: the canonical transaction word of an operation (R87, R93). -/
def encode (i : Instr) : TransactionWord := joinWord (transactionOf i)

/-- A transaction word with the bits the block ignores set to zero: all of `data` on a read, `data[31:8]` on an
octet write (R87: "the canonical form has it zero"). -/
def canonicalWord (T : TransactionWord) : TransactionWord :=
  let t := splitWord T
  joinWord { t with data :=
    match t.dir, t.size with
    | .read, _ => 0
    | .write, .octet => (t.data.extractLsb' 0 8).zeroExtend 32
    | .write, .word32 => t.data }

/-- The host's reading of an opcode-table word: bit 0 of `w` is bit 0 of `T`, and bits above `nbits` are zero.
A number with a bit at or above 51 is no transaction word:
DESIGN CHOICE, safe (notes/assumptions/10.md). -/
def decodeTableWord (nbits w : Nat) : Option Instr :=
  if w % 2 ^ nbits < 2 ^ 51 then
    match decode (BitVec.ofNat 51 (w % 2 ^ nbits)) with
    | .op i => some i
    | .fault _ => none
  else none

end Sys2Proof
end

