-- ==== Sys2Proof/Config.lean ====
section
/-! DEFINITION. What one instance of NPS-CORE fixes (R9), and the free values of the model: the draws a reset
takes for everything the spec leaves unspecified (R41, D17). No constant below has a body, so nothing can be
proved of its value. -/

namespace Sys2Proof.Config

/-- The parameter `BUF_LEN`, 0 to 65535, fixed per instance and left open by the spec (R9, D3).
DESIGN CHOICE, safe (notes/assumptions/1.md): an opaque constant. -/
opaque bufLen : Fin 65536

/-! The reset draws: `n` is the number of the reset, counted from 0 (R41: "possibly different at every reset").
DESIGN CHOICE, unsafe (notes/assumptions/2.md). -/

/-- What `F.VER` holds after reset `n` (R22). -/
opaque drawVer : Nat → BitVec 4

/-- What `F.IHL` holds after reset `n` (R23). -/
opaque drawIhl : Nat → BitVec 4

/-- What `F.TLEN` holds after reset `n` (R24). -/
opaque drawTlen : Nat → BitVec 16

/-- What `F.ID` holds after reset `n` (R25). -/
opaque drawId : Nat → BitVec 16

/-- What `F.TTL` holds after reset `n` (R26). -/
opaque drawTtl : Nat → BitVec 8

/-- What `F.PROTO` holds after reset `n` (R27). -/
opaque drawProto : Nat → BitVec 8

/-- What `F.SRC` holds after reset `n` (R28). -/
opaque drawSrc : Nat → BitVec 32

/-- What `F.DST` holds after reset `n` (R29). -/
opaque drawDst : Nat → BitVec 32

/-- What `CSUM` holds after reset `n` (R32). -/
opaque drawCsum : Nat → BitVec 16

/-- What octet `i` of `BUF` holds after reset `n`, "each octet its own" (R30). -/
opaque drawOctet : (n i : Nat) → BitVec 8

/-- `HDR_MIN`: octets in a header without options (R9). -/
def hdrMin : Nat := 20

/-- `BUF_BASE`: the host offset of `BUF[0]` (R9, R57). -/
def bufBase : Nat := 0x10000

end Sys2Proof.Config
end

