-- ==== Sys2Proof/Machine/State.lean ====
section
/-! DEFINITION. The state of the block, all of it plain data (R20), with what the fixed form of a step adds to it:
the host's events still to come and the responses given. -/

namespace Sys2Proof.Machine

/-- Why the machine could stop with a fault. It has NO constructor: every fault of the spec is recorded in
`STATUS.ERR` and the block goes on (R216); "there are no stuck states and no hangs, because every transaction is
answered" (R231, R258). Nobody raises one: safe. -/
inductive Fault where
  deriving DecidableEq, Repr

/-- Why the model could refuse. -/
inductive Refusal where
  /-- Raised only by an arm of `exec` whose instruction has no meaning yet; no arm is left that does. Safe. -/
  | notModelled (mnemonic : String)
  deriving DecidableEq, Repr

/-- The field register file `F` (R21 to R29). -/
structure Fields where
  /-- `F.VER` (R22). -/
  ver : BitVec 4
  /-- `F.IHL` (R23). -/
  ihl : BitVec 4
  /-- `F.TLEN` (R24). -/
  tlen : BitVec 16
  /-- `F.ID` (R25). -/
  id : BitVec 16
  /-- `F.TTL` (R26). -/
  ttl : BitVec 8
  /-- `F.PROTO` (R27). -/
  proto : BitVec 8
  /-- `F.SRC` (R28). -/
  src : BitVec 32
  /-- `F.DST` (R29). -/
  dst : BitVec 32
  deriving DecidableEq, Repr

/-- What the host does to the block, one event at a time (R240: reset is the only event besides transactions). -/
inductive HostEvent where
  /-- One bus access, as its transaction word (R87). -/
  | transaction (T : TransactionWord)
  /-- The host asserts `rst` between two transactions (R240, R242). -/
  | reset
  deriving DecidableEq, Repr

/-- The response to one transaction (R98). -/
structure Response where
  ok : Bool
  rdata : Word32
  deriving DecidableEq, Repr

/-- The octets of `BUF` by index: one entry per octet that exists, indices rising from 0 (R30, R44 (c)). An index
with no entry does not exist (R52). DESIGN CHOICE, safe (notes/assumptions/3.md). -/
abbrev Buffer := List Host.Cell

/-- The state of the machine. The first five fields are the eleven components of R20. -/
structure State where
  /-- The eight field registers `F` (R21). -/
  fields : Fields
  /-- `BUF` (R30). -/
  buf : Buffer
  /-- `CSUM` (R32). -/
  csum : BitVec 16
  /-- `STATUS.ERR` (R33). -/
  err : BitVec 3
  /-- The parameter `BUF_LEN` (R9), carried so that a statement speaks of every value of it; never written (R34).
  DESIGN CHOICE, safe (notes/assumptions/1.md). -/
  bufLen : Fin 65536
  /-- The model's own: the host's events still to come (R36, R39). DESIGN CHOICE, safe (notes/assumptions/4.md). -/
  script : List HostEvent
  /-- The model's own: the responses given since the last reset, oldest first (R260). DESIGN CHOICE, safe
  (notes/assumptions/5.md). -/
  responses : List Response
  /-- The model's own: how many resets came before the last one; it picks the draws (R41). DESIGN CHOICE,
  unsafe (notes/assumptions/2.md). -/
  resets : Nat
  deriving DecidableEq, Repr

/-- The registers after reset `n`: unspecified values, one draw each (R41). -/
def Fields.drawn (n : Nat) : Fields where
  ver := Config.drawVer n
  ihl := Config.drawIhl n
  tlen := Config.drawTlen n
  id := Config.drawId n
  ttl := Config.drawTtl n
  proto := Config.drawProto n
  src := Config.drawSrc n
  dst := Config.drawDst n

/-- `BUF` after reset `n`: `len` octets, each with a draw of its own (R30). -/
def Buffer.drawn (len n : Nat) : Buffer :=
  (List.range len).map fun i => (i, Config.drawOctet n i)

/-- The reset state (R41): `STATUS.ERR = 0`, everything else a draw; `BUF_LEN` is configuration (R240). -/
def State.afterReset (len : Fin 65536) (n : Nat) (script : List HostEvent) : State where
  fields := Fields.drawn n
  buf := Buffer.drawn len.val n
  csum := Config.drawCsum n
  err := 0
  bufLen := len
  script := script
  responses := []
  resets := n

/-- The machine right after its first reset (R41, R243), with no host event pending. -/
def State.reset : State := State.afterReset Config.bufLen 0 []

end Sys2Proof.Machine
end

