-- ==== Sys2Proof/Machine/Flags.lean ====
section
/-! DEFINITION. The block has no condition codes (R37). Its only status is the fault code `STATUS.ERR` (R33): the
five codes, and the rule by which one is latched. -/

namespace Sys2Proof.Machine

/-- The five synchronous faults (R210). -/
inductive FaultCode where
  /-- `PACK` with `BUF_LEN < 20`; `CKSUM h` with `h >= 5` and `4h > BUF_LEN` (R211). -/
  | bufferTooSmall
  /-- `CKSUM h` with `h < 5` (R212). -/
  | badHeaderLength
  /-- A word32 write to `CMD` that is no command word (R213). -/
  | illegalCommand
  /-- A transaction the address map does not allow (R214). -/
  | accessFault
  /-- `WRF` of a value that does not fit the register (R215). -/
  | fieldRange
  deriving DecidableEq, Repr

/-- The code of a fault in `STATUS.ERR` (R210); 0 means no fault. -/
def FaultCode.code : FaultCode → BitVec 3
  | .bufferTooSmall => 1
  | .badHeaderLength => 2
  | .illegalCommand => 3
  | .accessFault => 4
  | .fieldRange => 5

/-- The fault of a transaction that the decoder rejects (R89). -/
def FaultCode.ofDecode : DecodeFault → FaultCode
  | .accessFault => .accessFault
  | .illegalCommand => .illegalCommand

/-- First fault wins: the code is latched only while `STATUS.ERR` is 0 (R216, R218). -/
def latchErr (err : BitVec 3) (c : FaultCode) : BitVec 3 :=
  if err = 0 then c.code else err

/-- What `RDSTATUS` reads: `ERR` in bits 2:0, bits 31:3 zero (R33, R96). -/
def statusWord (err : BitVec 3) : Word32 := err.zeroExtend 32

end Sys2Proof.Machine
end

