-- ==== Sys2Proof/Machine/Ops.lean ====
section
/-! DEFINITION. The shared operations: the buffer primitives (R53), answering a transaction (R98), taking a fault
(R216), reset (R240), and the frame of every transaction (R170). -/

namespace Sys2Proof.Machine

/-! ### The buffer -/

/-- The octet at index `i`, if the buffer has one (R52). -/
def Buffer.octet? : Buffer → Nat → Option Octet
  | [], _ => none
  | (a, v) :: rest, i => if a = i then some v else Buffer.octet? rest i

/-- `BUF[i]` (R12). Defined for `i < BUF_LEN` only, and every rule tests that first (R52). Outside the buffer it is
zero: DESIGN CHOICE, safe (notes/assumptions/8.md). -/
def Buffer.read8 (b : Buffer) (i : Nat) : Octet := (b.octet? i).getD 0

/-- `MemRead(i, 2)`: most significant octet first (R53, R56). -/
def Buffer.read16 (b : Buffer) (i : Nat) : Word16 := cat8 (b.read8 i) (b.read8 (i + 1))

/-- `MemRead(i, 4)`: most significant octet first (R53, R55). -/
def Buffer.read32 (b : Buffer) (i : Nat) : Word32 :=
  cat16 (b.read16 i) (b.read16 (i + 2))

/-- The octet writes of one operation, all at once (R12, R53): each octet named in `w` takes the value named, every
other keeps its own. It grows nothing: an index that does not exist stays absent (R44 (c)). -/
def Buffer.writeAll (b : Buffer) (w : List (Nat × Octet)) : Buffer :=
  b.map fun c => (c.1, (Buffer.octet? w c.1).getD c.2)

/-- `BUF[i] <- v` (R12). -/
def Buffer.write8 (b : Buffer) (i : Nat) (v : Octet) : Buffer := b.writeAll [(i, v)]

/-- `MemWrite(i, 2, v)` (R53). -/
def Buffer.write16 (b : Buffer) (i : Nat) (v : Word16) : Buffer :=
  b.writeAll [(i, v.extractLsb' 8 8), (i + 1, v.extractLsb' 0 8)]

/-- `MemWrite(i, 4, v)` (R53). -/
def Buffer.write32 (b : Buffer) (i : Nat) (v : Word32) : Buffer :=
  b.writeAll [(i, v.extractLsb' 24 8), (i + 1, v.extractLsb' 16 8), (i + 2, v.extractLsb' 8 8),
    (i + 3, v.extractLsb' 0 8)]

/-- The canonical form of a buffer of `len` octets: one entry for each index below `len`, rising (R44 (c)). -/
def Memory.wf (len : Nat) (b : Buffer) : Bool := b.map Prod.fst == List.range len

/-! ### Answering -/

/-- `respond(ok, rdata)`: the transaction gets its response (R12, R98). -/
def State.respond (s : State) (ok : Bool) (rdata : Word32) : State :=
  { s with responses := s.responses ++ [⟨ok, rdata⟩] }

/-- `raise c`: taking a fault. `STATUS.ERR` takes the code if it was 0, nothing else changes, control goes nowhere,
and the response is `ok = 0, rdata = 0` (R216, R217, R218). -/
def State.raise (s : State) (c : FaultCode) : State :=
  { s with err := latchErr s.err c }.respond false 0

/-- A write to a faulted block is refused: nothing changes, `ok = 0, rdata = 0` (R219). -/
def State.refuseWrite (s : State) : State := s.respond false 0

/-- The reset event, the only way out of a fault (R220, R240): the reset state with fresh draws; `BUF_LEN` and the
host's further events stand, and a new run begins (R260). -/
def State.resetEvent (s : State) : State := State.afterReset s.bufLen (s.resets + 1) s.script

/-! ### The frame of every transaction (R170) -/

/-- A read operation: it faults on the first check that fails, else it answers with a value; it changes nothing
else, and it is performed in a faulted block too (R170, R219). -/
def State.performRead (s : State) (check : Option FaultCode) (value : Word32) : State :=
  match check with
  | some c => s.raise c
  | none => s.respond true value

/-- A write operation: refused in a faulted block; else it faults on the first check that fails; else its whole
effect happens and it answers (R170, R217). -/
def State.performWrite (s : State) (check : Option FaultCode) (effect : State) (result : Word32) : State :=
  if s.err ≠ 0 then s.refuseWrite
  else
    match check with
    | some c => s.raise c
    | none => effect.respond true result

/-- A transaction that decodes to a fault: a write is refused in a faulted block, before it is decoded; otherwise the
fault is taken (R170, R196, R221). -/
def State.decodeFault (s : State) (dir : Dir) (c : DecodeFault) : State :=
  match dir with
  | .read => s.performRead (some (FaultCode.ofDecode c)) 0
  | .write => s.performWrite (some (FaultCode.ofDecode c)) s 0

/-! ### Taking the host's next event -/

/-- The host's next event and the state with it taken from the script; none when the host has issued everything. -/
def State.nextEvent (s : State) : Option (HostEvent × State) :=
  match s.script with
  | [] => none
  | e :: rest => some (e, { s with script := rest })

end Sys2Proof.Machine
end

