-- ==== Sys2Proof/Machine/Operands.lean ====
section
/-! DEFINITION. The operand forms: a field register, a value written to one, a buffer index, a header length; and
the check each operation makes of its operands, in the order of R221. -/

namespace Sys2Proof.Machine

/-! ### Field registers -/

/-- The width of a field register (R10, R171). -/
def fieldWidth : Field → Nat
  | .ver => 4
  | .ihl => 4
  | .tlen => 16
  | .id => 16
  | .ttl => 8
  | .proto => 8
  | .src => 32
  | .dst => 32

/-- `zext_32(F.f)` (R96, R180). -/
def Fields.read (r : Fields) : Field → Word32
  | .ver => r.ver.zeroExtend 32
  | .ihl => r.ihl.zeroExtend 32
  | .tlen => r.tlen.zeroExtend 32
  | .id => r.id.zeroExtend 32
  | .ttl => r.ttl.zeroExtend 32
  | .proto => r.proto.zeroExtend 32
  | .src => r.src
  | .dst => r.dst

/-- `F.f <- v[w-1:0]` (R171). -/
def Fields.write (r : Fields) (f : Field) (v : Word32) : Fields :=
  match f with
  | .ver => { r with ver := v.extractLsb' 0 4 }
  | .ihl => { r with ihl := v.extractLsb' 0 4 }
  | .tlen => { r with tlen := v.extractLsb' 0 16 }
  | .id => { r with id := v.extractLsb' 0 16 }
  | .ttl => { r with ttl := v.extractLsb' 0 8 }
  | .proto => { r with proto := v.extractLsb' 0 8 }
  | .src => { r with src := v }
  | .dst => { r with dst := v }

/-- The value must fit the register: no bit at or above its width (R171, R215). -/
def checkField (f : Field) (v : Word32) : Option FaultCode :=
  if v.toNat < 2 ^ fieldWidth f then none else some .fieldRange

/-! ### Buffer indices -/

/-- An octet access needs `i < BUF_LEN` (R192, R193). -/
def State.checkOctet (s : State) (i : BufIndex) : Option FaultCode :=
  if i.toNat < s.bufLen.val then none else some .accessFault

/-- A word32 access needs an index that is a multiple of 4 and all four octets inside `BUF` (R194, R195). The decoder
has tested the alignment already; an instruction term that is ill-formed faults here with the same code:
DEDUCED, safe (notes/assumptions/7.md). -/
def State.checkWord (s : State) (i : BufIndex) : Option FaultCode :=
  if aligned4 i = true ∧ i.toNat + 4 ≤ s.bufLen.val then none else some .accessFault

/-! ### Header lengths -/

/-- `PACK` needs a buffer that holds a 20-octet header (R111). -/
def State.checkPack (s : State) : Option FaultCode :=
  if s.bufLen.val < Config.hdrMin then some .bufferTooSmall else none

/-- `CKSUM h` needs `5 <= h`, and then `4h <= BUF_LEN` (R147, R221). -/
def State.checkCksum (s : State) (h : BitVec 4) : Option FaultCode :=
  if h.toNat < 5 then some .badHeaderLength
  else if s.bufLen.val < 4 * h.toNat then some .bufferTooSmall
  else none

end Sys2Proof.Machine
end

