-- ==== Sys2Proof/Machine/ChecksumEngine.lean ====
section
/-! DEFINITION. CE, the checksum engine: the checksum as pure functions (R140 to R144) and the operation
`CKSUM` (R146). -/

namespace Sys2Proof.Machine

/-! ### The checksum as functions -/

/-- `words16(B)`: big-endian word16s, an odd last octet padded with a zero octet (R140). -/
def words16 : List Octet → List Word16
  | [] => []
  | [x] => [cat8 x 0]
  | x :: y :: rest => cat8 x y :: words16 rest

/-- `sum16(w)`: the exact sum (R141). -/
def sum16 : List Word16 → Nat
  | [] => 0
  | w :: ws => w.toNat + sum16 ws

/-- One pass of the fold: the high part plus the low 16 bits (R142). -/
def foldPass (S : Nat) : Nat := S / 0x10000 + S % 0x10000

/-- The fold's loop, at most `fuel` passes. -/
def foldLoop : Nat → Nat → Nat
  | 0, S => S
  | fuel + 1, S => if 0xFFFF < S then foldLoop fuel (foldPass S) else S

/-- `fold16(S)`: passes while `S > 0xFFFF` (R142). Each pass lowers such an `S`, so `S` passes are enough for the loop
to end by its own test. -/
def fold16 (S : Nat) : Nat := foldLoop S S

/-- `~fold16(S)` at 16 bits (R143). -/
def complement16 (S : Nat) : Word16 := ~~~ BitVec.ofNat 16 (fold16 S)

/-- `ocsum16(B)` (R143). -/
def ocsum16 (B : List Octet) : Word16 := complement16 (sum16 (words16 B))

/-- The end-around-carry addition `a (+) b` (R144). -/
def eacAdd (a b : Nat) : Nat := (a + b) % 0x10000 + (a + b) / 0x10000

/-- `eac(w)`: the 16-bit datapath, from the left, starting at 0 (R144). -/
def eac (w : List Word16) : Nat := w.foldl (fun acc x => eacAdd acc x.toNat) 0

/-! ### The operation -/

/-- The word16 that enters the sum at turn `k`: `MemRead(2k, 2)`, and zero in the place of the checksum field
(R146, R148). -/
def spanWord (b : Buffer) (k : Nat) : Nat :=
  if k = 5 then 0 else (b.read16 (2 * k)).toNat

/-- The summation loop for `k = 0` to `n - 1` (R146). -/
def spanSum (b : Buffer) : Nat → Nat
  | 0 => 0
  | k + 1 => spanSum b k + spanWord b k

/-- The checksum `CKSUM h` computes: `2h` turns of the loop, fold, complement (R146). -/
def State.checksum (s : State) (h : BitVec 4) : Word16 := complement16 (spanSum s.buf (2 * h.toNat))

/-- What a successful `CKSUM h` does to the block: octets 10 and 11, and `CSUM` (R146, R156). -/
def State.sealed (s : State) (h : BitVec 4) : State :=
  { s with buf := s.buf.write16 10 (s.checksum h), csum := s.checksum h }

/-- `CKSUM h` (R146, R147, R155, R160). -/
def execCksum (h : BitVec 4) (s : State) : Host.Outcome State Fault Refusal :=
  .next (s.performWrite (s.checkCksum h) (s.sealed h) ((s.checksum h).zeroExtend 32))

end Sys2Proof.Machine
end

