-- ==== Sys2Proof/Machine/HeaderBuilder.lean ====
section
/-! DEFINITION. HB, the header builder: the operation `PACK` (R110). -/

namespace Sys2Proof.Machine

/-- The header image, octet by octet (R81): what `PACK` writes and where. -/
def headerImage (r : Fields) : List (Nat × Octet) :=
  [ (0, cat4 r.ver r.ihl),
    (1, 0x00),
    (2, r.tlen.extractLsb' 8 8), (3, r.tlen.extractLsb' 0 8),
    (4, r.id.extractLsb' 8 8), (5, r.id.extractLsb' 0 8),
    (6, 0x00), (7, 0x00),
    (8, r.ttl),
    (9, r.proto),
    (10, 0x00), (11, 0x00),
    (12, r.src.extractLsb' 24 8), (13, r.src.extractLsb' 16 8),
    (14, r.src.extractLsb' 8 8), (15, r.src.extractLsb' 0 8),
    (16, r.dst.extractLsb' 24 8), (17, r.dst.extractLsb' 16 8),
    (18, r.dst.extractLsb' 8 8), (19, r.dst.extractLsb' 0 8) ]

/-- What a successful `PACK` does to the block: octets 0 to 19, nothing else (R110, R113). -/
def State.packed (s : State) : State := { s with buf := s.buf.writeAll (headerImage s.fields) }

/-- `PACK` (R110, R111, R119, R120). -/
def execPack (s : State) : Host.Outcome State Fault Refusal :=
  .next (s.performWrite s.checkPack s.packed 0)

end Sys2Proof.Machine
end

