-- ==== Sys2Proof/Machine/HostAccess.lean ====
section
/-! DEFINITION. Host access: `WRF`, `RDF`, the status and result reads, and the buffer loads and stores
(R171 to R195). -/

namespace Sys2Proof.Machine

/-! ### Field register writes (R171) -/

/-- `WRF f, v`, common part: refused in a faulted block, `FieldRange` when `v` does not fit, else the register takes
`v` and nothing else changes (R171). -/
def State.writeField (s : State) (f : Field) (v : Word32) : State :=
  s.performWrite (checkField f v) { s with fields := s.fields.write f v } 0

/-- `WRF.VER v` (R172). -/
def execWrfVer (v : Word32) (s : State) : Host.Outcome State Fault Refusal := .next (s.writeField .ver v)

/-- `WRF.IHL v` (R173). -/
def execWrfIhl (v : Word32) (s : State) : Host.Outcome State Fault Refusal := .next (s.writeField .ihl v)

/-- `WRF.TLEN v` (R174). -/
def execWrfTlen (v : Word32) (s : State) : Host.Outcome State Fault Refusal := .next (s.writeField .tlen v)

/-- `WRF.ID v` (R175). -/
def execWrfId (v : Word32) (s : State) : Host.Outcome State Fault Refusal := .next (s.writeField .id v)

/-- `WRF.TTL v` (R176). -/
def execWrfTtl (v : Word32) (s : State) : Host.Outcome State Fault Refusal := .next (s.writeField .ttl v)

/-- `WRF.PROTO v` (R177). -/
def execWrfProto (v : Word32) (s : State) : Host.Outcome State Fault Refusal := .next (s.writeField .proto v)

/-- `WRF.SRC v` (R178). -/
def execWrfSrc (v : Word32) (s : State) : Host.Outcome State Fault Refusal := .next (s.writeField .src v)

/-- `WRF.DST v` (R179). -/
def execWrfDst (v : Word32) (s : State) : Host.Outcome State Fault Refusal := .next (s.writeField .dst v)

/-! ### Field register reads (R180) -/

/-- `RDF f`, common part: no fault, performed in a faulted block too (R180). -/
def State.readField (s : State) (f : Field) : State := s.performRead none (s.fields.read f)

/-- `RDF.VER` (R181). -/
def execRdfVer (s : State) : Host.Outcome State Fault Refusal := .next (s.readField .ver)

/-- `RDF.IHL` (R182). -/
def execRdfIhl (s : State) : Host.Outcome State Fault Refusal := .next (s.readField .ihl)

/-- `RDF.TLEN` (R183). -/
def execRdfTlen (s : State) : Host.Outcome State Fault Refusal := .next (s.readField .tlen)

/-- `RDF.ID` (R184). -/
def execRdfId (s : State) : Host.Outcome State Fault Refusal := .next (s.readField .id)

/-- `RDF.TTL` (R185). -/
def execRdfTtl (s : State) : Host.Outcome State Fault Refusal := .next (s.readField .ttl)

/-- `RDF.PROTO` (R186). -/
def execRdfProto (s : State) : Host.Outcome State Fault Refusal := .next (s.readField .proto)

/-- `RDF.SRC` (R187). -/
def execRdfSrc (s : State) : Host.Outcome State Fault Refusal := .next (s.readField .src)

/-- `RDF.DST` (R188). -/
def execRdfDst (s : State) : Host.Outcome State Fault Refusal := .next (s.readField .dst)

/-! ### Status and result reads -/

/-- `RDSTATUS` (R189). -/
def execRdstatus (s : State) : Host.Outcome State Fault Refusal := .next (s.performRead none (statusWord s.err))

/-- `RDCSUM` (R190). -/
def execRdcsum (s : State) : Host.Outcome State Fault Refusal := .next (s.performRead none (s.csum.zeroExtend 32))

/-- `RDBUFLEN` (R191). -/
def execRdbuflen (s : State) : Host.Outcome State Fault Refusal :=
  .next (s.performRead none (BitVec.ofNat 32 s.bufLen.val))

/-! ### Buffer loads and stores -/

/-- `LDB i` (R192). -/
def execLdb (i : BufIndex) (s : State) : Host.Outcome State Fault Refusal :=
  .next (s.performRead (s.checkOctet i) ((s.buf.read8 i.toNat).zeroExtend 32))

/-- `STB i, v` (R193). -/
def execStb (i : BufIndex) (v : Octet) (s : State) : Host.Outcome State Fault Refusal :=
  .next (s.performWrite (s.checkOctet i) { s with buf := s.buf.write8 i.toNat v } 0)

/-- `LDW i` (R194). -/
def execLdw (i : BufIndex) (s : State) : Host.Outcome State Fault Refusal :=
  .next (s.performRead (s.checkWord i) (s.buf.read32 i.toNat))

/-- `STW i, v` (R195). -/
def execStw (i : BufIndex) (v : Word32) (s : State) : Host.Outcome State Fault Refusal :=
  .next (s.performWrite (s.checkWord i) { s with buf := s.buf.write32 i.toNat v } 0)

end Sys2Proof.Machine
end

