-- ==== Sys2Proof/Machine/Dispatch.lean ====
section
/-! DEFINITION. One arm per operation (R90). -/

namespace Sys2Proof.Machine

def exec (i : Instr) (s : State) : Host.Outcome State Fault Refusal :=
  match i with
  | .pack => Sys2Proof.Machine.execPack s
  | .cksum h => Sys2Proof.Machine.execCksum h s
  | .wrfVer v => Sys2Proof.Machine.execWrfVer v s
  | .wrfIhl v => Sys2Proof.Machine.execWrfIhl v s
  | .wrfTlen v => Sys2Proof.Machine.execWrfTlen v s
  | .wrfId v => Sys2Proof.Machine.execWrfId v s
  | .wrfTtl v => Sys2Proof.Machine.execWrfTtl v s
  | .wrfProto v => Sys2Proof.Machine.execWrfProto v s
  | .wrfSrc v => Sys2Proof.Machine.execWrfSrc v s
  | .wrfDst v => Sys2Proof.Machine.execWrfDst v s
  | .rdfVer => Sys2Proof.Machine.execRdfVer s
  | .rdfIhl => Sys2Proof.Machine.execRdfIhl s
  | .rdfTlen => Sys2Proof.Machine.execRdfTlen s
  | .rdfId => Sys2Proof.Machine.execRdfId s
  | .rdfTtl => Sys2Proof.Machine.execRdfTtl s
  | .rdfProto => Sys2Proof.Machine.execRdfProto s
  | .rdfSrc => Sys2Proof.Machine.execRdfSrc s
  | .rdfDst => Sys2Proof.Machine.execRdfDst s
  | .rdstatus => Sys2Proof.Machine.execRdstatus s
  | .rdcsum => Sys2Proof.Machine.execRdcsum s
  | .rdbuflen => Sys2Proof.Machine.execRdbuflen s
  | .ldb a => Sys2Proof.Machine.execLdb a s
  | .stb a v => Sys2Proof.Machine.execStb a v s
  | .ldw a => Sys2Proof.Machine.execLdw a s
  | .stw a v => Sys2Proof.Machine.execStw a v s

end Sys2Proof.Machine
end

