-- ==== Sys2Proof/Machine/Step.lean ====
section
/-! DEFINITION. One step of the machine: the host's next event, taken whole (R59). -/

namespace Sys2Proof.Machine

/-- With no event left the block is idle and holds its state (R229, R260). A reset gives the reset state (R240). A
transaction is decoded and the operation performed, or the decode fault taken (R170). -/
def step (s : State) : Host.Outcome State Fault Refusal :=
  match s.nextEvent with
  | none => .next s
  | some (.reset, s') => .next s'.resetEvent
  | some (.transaction T, s') =>
    match decode T with
    | .op i => exec i s'
    | .fault c => .next (s'.decodeFault (splitWord T).dir c)

/-- `s` with the transaction of an opcode-table word as the host's very next event. The block fetches nothing
(R36, R62): the next instruction is whatever the host issues next (D24). -/
def State.withFetchWord (s : State) (nbits w : Nat) : State :=
  { s with script := .transaction (BitVec.ofNat 51 (w % 2 ^ nbits)) :: s.script }

end Sys2Proof.Machine
end

