-- ==== Sys2Proof/Machine/Header.lean ====
section
/-! DEFINITION. Reading a header back: the word views of the buffer (R55, R56), the field extraction (R97) and what
makes its values valid (R115). The block has no operation that does this; the host does it with loads. -/

namespace Sys2Proof.Machine

/-- The word32 view `W[k]` (R55). -/
def Buffer.wordView (b : Buffer) (k : Nat) : Word32 := b.read32 (4 * k)

/-- The word16 view `H[k]` (R56). -/
def Buffer.halfView (b : Buffer) (k : Nat) : Word16 := b.read16 (2 * k)

/-- The nine fields of a header (R80): the eight logical fields and the checksum. -/
structure Header where
  fields : Fields
  cks : Word16
  deriving DecidableEq, Repr

/-- Field extraction, the inverse of the layout (R97). -/
def Buffer.parseHeader (b : Buffer) : Header where
  fields :=
    { ver := (b.read8 0).extractLsb' 4 4
      ihl := (b.read8 0).extractLsb' 0 4
      tlen := b.read16 2
      id := b.read16 4
      ttl := b.read8 8
      proto := b.read8 9
      src := b.read32 12
      dst := b.read32 16 }
  cks := b.read16 10

/-- The octets of the header that a field lies in (R81, R117). -/
def fieldOctets : Field → List Nat
  | .ver => [0]
  | .ihl => [0]
  | .tlen => [2, 3]
  | .id => [4, 5]
  | .ttl => [8]
  | .proto => [9]
  | .src => [12, 13, 14, 15]
  | .dst => [16, 17, 18, 19]

/-- The octets `BUF[0]` to `BUF[n-1]`, in order. -/
def Buffer.octets (b : Buffer) (n : Nat) : List Octet := (List.range n).map b.read8

/-- The same octets with the checksum field, octets 10 and 11, replaced by zero (the `Z` of R146). -/
def Buffer.octetsZeroed (b : Buffer) (n : Nat) : List Octet :=
  (List.range n).map fun i => if i = 10 ∨ i = 11 then 0 else b.read8 i

/-! ### Validity of a header's values

The block guarantees where a value is placed, never that it is valid (R114, R115). -/

/-- Octets 0 to 19 are a syntactically valid header with the checksum field left at zero: version 4 (R249), header
length 5 (R250), and zero in octets 1, 6 and 7 (R84) and in the checksum field (R85).
DEDUCED, safe (notes/assumptions/13.md). -/
abbrev Buffer.SyntacticallyValid (b : Buffer) : Prop :=
  b.parseHeader.fields.ver = 4 ∧ b.parseHeader.fields.ihl = 5 ∧
  b.octet? 1 = some 0 ∧ b.octet? 6 = some 0 ∧ b.octet? 7 = some 0 ∧
  b.octet? 10 = some 0 ∧ b.octet? 11 = some 0

/-- The buffer of `len` octets begins with a datagram: the header says version 4 (R249) and at least five word32s
(R250), its total length covers the header and lies inside the buffer (R247, R261), and its octets with the stored
checksum verify (R151). DEDUCED, safe (notes/assumptions/13.md). -/
abbrev Buffer.IsDatagram (b : Buffer) (len : Nat) : Prop :=
  b.parseHeader.fields.ver = 4 ∧ 5 ≤ b.parseHeader.fields.ihl.toNat ∧
  4 * b.parseHeader.fields.ihl.toNat ≤ b.parseHeader.fields.tlen.toNat ∧
  b.parseHeader.fields.tlen.toNat ≤ len ∧
  fold16 (sum16 (words16 (b.octets (4 * b.parseHeader.fields.ihl.toNat)))) = 0xFFFF

end Sys2Proof.Machine
end

