-- ==== Sys2Proof/Machine/Script.lean ====
section
/-! DEFINITION. Scripts: the operations a host issues, the pseudo-instructions and the dotted-quad literal
(R93 to R95). A script is the host's; the block holds no program (R36). -/

namespace Sys2Proof.Machine

/-- The host events of a list of operations, each as its canonical transaction word (R93). -/
def scriptOf (ops : List Instr) : List HostEvent := ops.map fun i => .transaction (encode i)

/-- The operations of a script that is transactions only and in which every transaction decodes to an operation;
none if it holds a reset or a transaction that decodes to a fault. -/
def scriptOps : List HostEvent → Option (List Instr)
  | [] => some []
  | .reset :: _ => none
  | .transaction T :: rest =>
    match decode T, scriptOps rest with
    | .op i, some ops => some (i :: ops)
    | _, _ => none

/-- `build h`: `pack` then `cksum h` (R94). -/
def build (h : BitVec 4) : List Instr := [.pack, .cksum h]

/-- The indices from `a` to `b` inclusive (R94); none when `b < a`, of which R94 says nothing: DESIGN CHOICE, safe
(notes/assumptions/11.md). -/
def indexRange (a b : BufIndex) : List BufIndex :=
  (List.range (b.toNat + 1 - a.toNat)).map fun k => a + BitVec.ofNat 16 k

/-- `zero a, b`: `stb i, 0` for each index from `a` to `b` (R94). -/
def zero (a b : BufIndex) : List Instr := (indexRange a b).map fun i => .stb i 0

/-- `setup`: the eight `wrf` in field-index order (R94). -/
def setup (ver ihl tlen id ttl proto src dst : Word32) : List Instr :=
  [.wrfVer ver, .wrfIhl ihl, .wrfTlen tlen, .wrfId id, .wrfTtl ttl, .wrfProto proto, .wrfSrc src, .wrfDst dst]

/-- `dump a, b`: `ldb i` for each index from `a` to `b` (R94). -/
def dump (a b : BufIndex) : List Instr := (indexRange a b).map fun i => .ldb i

/-- The dotted quad `a.b.c.d` as a 32-bit number, `a` most significant (R95). -/
def dottedQuad (a b c d : Octet) : Word32 := cat16 (cat8 a b) (cat8 c d)

end Sys2Proof.Machine
end

