-- ==== Sys2Proof/Safety.lean ====
section
/-! DEFINITION. What claims are stated in: the invariant of the state (R44), what it is for two states to agree on
the block, and the named premises of a claim about a finished datagram (R261). -/

namespace Sys2Proof.Machine

/-- A step's outcome is a next state with the property `P`. -/
def Completes (o : Host.Outcome State Fault Refusal) (P : State → Prop) : Prop := ∃ t, o = .next t ∧ P t

/-- The invariant of every reachable state: `BUF` has exactly `BUF_LEN` octets (R44 (c)); `STATUS.ERR` is one of 0 to 5
(R44 (a)); `STATUS.ERR` is 0 exactly when every response since the reset was `ok` (R230); and a response that is not
`ok` carries no data (R98). -/
abbrev State.Inv (s : State) : Prop :=
  Memory.wf s.bufLen.val s.buf = true ∧
  s.err.toNat ≤ 5 ∧
  (s.err = 0 ↔ ∀ r ∈ s.responses, r.ok = true) ∧
  (∀ r ∈ s.responses, r.ok = false → r.rdata = 0)

/-- The block is faulted (R219). -/
abbrev State.Faulted (s : State) : Prop := s.err ≠ 0

/-- `F`, `BUF`, `CSUM` and the configuration are the same in both states (R217: what a fault leaves alone). -/
abbrev SameData (s t : State) : Prop :=
  t.fields = s.fields ∧ t.buf = s.buf ∧ t.csum = s.csum ∧ t.bufLen = s.bufLen

/-- All of the block's state is the same in both states (R20). -/
abbrev SameBlock (s t : State) : Prop := SameData s t ∧ t.err = s.err

/-- The transaction was answered by exactly `r`, and the host's script and the resets stand as they were. -/
abbrev Answered (s t : State) (r : Response) : Prop :=
  t.responses = s.responses ++ [r] ∧ t.script = s.script ∧ t.resets = s.resets

/-! ### The named premises of R261

`OneHost` needs no definition: the model has one host and reset falls between transactions only. -/

/-- `Reset`: the run begins at a reset state, whatever its draws (R240, R243). -/
abbrev State.FreshReset (s : State) : Prop :=
  s.err = 0 ∧ s.responses = [] ∧ Memory.wf s.bufLen.val s.buf = true

/-- `NoFault`: every response of the run had `ok = 1` (R253). -/
abbrev State.NoFault (s : State) : Prop := ∀ r ∈ s.responses, r.ok = true

/-- `Fits` (R247, R250). -/
abbrev State.Fits (s : State) : Prop :=
  20 ≤ s.bufLen.val ∧ 4 * s.fields.ihl.toNat ≤ s.bufLen.val ∧ s.fields.tlen.toNat ≤ s.bufLen.val

/-- `ValidValues` (R249, R250). -/
abbrev State.ValidValues (s : State) : Prop :=
  s.fields.ver = 4 ∧ 5 ≤ s.fields.ihl.toNat ∧ 4 * s.fields.ihl.toNat ≤ s.fields.tlen.toNat

/-- `FieldsWritten`: all eight registers were written before the last `PACK` (R244 (a), R251). -/
def FieldsWritten (ops : List Instr) : Prop :=
  ∃ before after, ops = before ++ Instr.pack :: after ∧ Instr.pack ∉ after ∧
    ∀ f, ∃ v, Instr.wrf f v ∈ before

/-- Does the operation, issued by the host as a store, write octet `n` of the buffer (R193, R195)? -/
def storesOctet (n : Nat) : Instr → Bool
  | .pack => false
  | .cksum _ => false
  | .wrfVer _ => false
  | .wrfIhl _ => false
  | .wrfTlen _ => false
  | .wrfId _ => false
  | .wrfTtl _ => false
  | .wrfProto _ => false
  | .wrfSrc _ => false
  | .wrfDst _ => false
  | .rdfVer => false
  | .rdfIhl => false
  | .rdfTlen => false
  | .rdfId => false
  | .rdfTtl => false
  | .rdfProto => false
  | .rdfSrc => false
  | .rdfDst => false
  | .rdstatus => false
  | .rdcsum => false
  | .rdbuflen => false
  | .ldb _ => false
  | .stb i _ => n == i.toNat
  | .ldw _ => false
  | .stw i _ => i.toNat ≤ n && n < i.toNat + 4

/-- `TailWritten`: every octet from 20 to `tlen - 1` was stored by the host (R244 (b), R252). -/
def TailWritten (ops : List Instr) (tlen : Nat) : Prop :=
  ∀ n, 20 ≤ n → n < tlen → ∃ i ∈ ops, storesOctet n i = true

/-- `Sealed`: after the last `CKSUM h`, with `h = F.IHL`, comes no `PACK` and no store to an octet of 0 to `4h - 1`
other than 10 and 11 (R245, R246, R248). -/
def Sealed (ops : List Instr) (ihl : BitVec 4) : Prop :=
  ∃ before after, ops = before ++ Instr.cksum ihl :: after ∧ Instr.pack ∉ after ∧
    (∀ h, Instr.cksum h ∉ after) ∧
    ∀ n, n < 4 * ihl.toNat → n ≠ 10 → n ≠ 11 → ∀ i ∈ after, storesOctet n i = false

end Sys2Proof.Machine
end

