-- ==== Sys2Proof/Certificates/Slice0/Obligations.lean ====
section
/-! DEFINITION. The statements for the provers. Each docstring names the rule of spec/ it formalises. -/

open Sys2Proof Sys2Proof.Machine

/-! ### Encoding -/

/-- R87 to R89: words the spec prints, each with what it decodes to (30_encoding.md, 42_host_access.md rules R171 to
R195, 95_test_vectors.md section 6). -/
def Obligations.SpecWordsDecodeAsPrinted : Prop :=
  decode 0x6000000000001 = .op .pack ∧
  decode 0x6000000000052 = .op (.cksum 5) ∧
  decode 0x6002000000004 = .op (.wrfVer 4) ∧
  decode 0x6003CC0000201 = .op (.wrfDst 0xC0000201) ∧
  decode 0x2002000000055 = .op .rdfVer ∧
  decode 0x2003C00000000 = .op .rdfDst ∧
  decode 0x2000400000000 = .op .rdstatus ∧
  decode 0x1FFFF00000000 = .op (.ldb 65535) ∧
  decode 0x50003000001FF = .op (.stb 3 0xFF) ∧
  decode 0x3001000000000 = .op (.ldw 16) ∧
  decode 0x70014DEADBEEF = .op (.stw 20 0xDEADBEEF) ∧
  decode 0x6000000000011 = .fault .illegalCommand ∧
  decode 0x60002FFFFFFFF = .fault .accessFault

/-- R87 to R89, R93: decoding the encoded form of any well-formed instruction gives it back, every operand at every
value the encoding admits. -/
def Obligations.DecodeOfEncode : Prop :=
  ∀ i : Instr, i.wf = true → decode (encode i) = .op i

/-- R87, R89: a transaction word that decodes to an operation is that operation's encoding but for the bits the block
ignores, and the operation is well-formed. So no two words that differ in a bit that counts decode alike. -/
def Obligations.EncodeOfDecode : Prop :=
  ∀ (T : TransactionWord) (i : Instr), decode T = .op i → i.wf = true ∧ encode i = canonicalWord T

/-- R87: of a read all of `data` is ignored, of an octet write `data[31:8]`: words that differ there only decode
alike. -/
def Obligations.IgnoredBitsDoNotMatter : Prop :=
  ∀ T U : TransactionWord, canonicalWord T = canonicalWord U → decode T = decode U

/-! ### The step -/

/-- R170, R59: when the host's next event is a transaction that decodes to an operation, the step is `exec` of that
operation on the state with that event taken from the script; the step adds nothing else. -/
def Obligations.StepRunsTheDecodedInstruction : Prop :=
  ∀ (s : State) (T : TransactionWord) (rest : List HostEvent) (i : Instr),
    s.script = .transaction T :: rest → decode T = .op i → step s = exec i { s with script := rest }

/-- R216, R218, R219: a transaction that decodes to a fault latches the fault's code if `STATUS.ERR` is 0, changes
nothing else, and is answered `ok = 0, rdata = 0`; in a faulted block a write is refused, which changes and answers the
same. -/
def Obligations.StepTakesTheDecodeFault : Prop :=
  ∀ (s : State) (T : TransactionWord) (rest : List HostEvent) (c : DecodeFault),
    s.script = .transaction T :: rest → decode T = .fault c →
    step s = .next { s with
      script := rest
      err := if s.err = 0 then (match c with | .accessFault => 4 | .illegalCommand => 3) else s.err
      responses := s.responses ++ [⟨false, 0⟩] }

/-- R229, R260: with no event left the block is idle and holds its state. -/
def Obligations.IdleBlockHoldsItsState : Prop :=
  ∀ s : State, s.script = [] → step s = .next s

/-- R240, R220: the reset event clears `STATUS.ERR`, keeps `BUF_LEN`, and everything else of the block becomes a fresh
draw. The draws (entry 2) and the cleared list of responses (entry 5) are the model's choice. -/
def Obligations.ResetEventGivesTheResetState : Prop :=
  ∀ (s : State) (rest : List HostEvent), s.script = .reset :: rest →
    step s = .next
      { fields := Fields.drawn (s.resets + 1), buf := Buffer.drawn s.bufLen.val (s.resets + 1),
        csum := Config.drawCsum (s.resets + 1), err := 0, bufLen := s.bufLen, script := rest, responses := [],
        resets := s.resets + 1 }

/-- R98, R258: every step answers a next state and takes one event from the script; a transaction gets exactly one
response, and nothing else of the host's side changes. -/
def Obligations.EveryTransactionIsAnsweredOnce : Prop :=
  ∀ s : State, Completes (step s) fun t =>
    t.script = s.script.tail ∧
    ∀ T rest, s.script = .transaction T :: rest → ∃ r, t.responses = s.responses ++ [r] ∧ t.resets = s.resets

/-! ### Invariants and whole-machine rules -/

/-- R44, R230, R98: every step keeps the invariant, from every state that has it. -/
def Obligations.EveryStepKeepsTheInvariant : Prop :=
  ∀ s t : State, s.Inv → step s = .next t → t.Inv

/-- R41, R44: the reset state has the invariant, whatever `BUF_LEN` and the draws are. -/
def Obligations.ResetStateHasTheInvariant : Prop := State.reset.Inv

/-- R34, R44 (c): no step changes `BUF_LEN`, and no step but a reset adds, removes or moves an octet of `BUF`, in any
state. -/
def Obligations.NoStepResizesTheBuffer : Prop :=
  ∀ s : State, Completes (step s) fun t =>
    t.bufLen = s.bufLen ∧ (s.script.head? ≠ some .reset → t.buf.map Prod.fst = s.buf.map Prod.fst)

/-- R219: the faulted block. Every write is refused; every read is answered as in an unfaulted block with the same
data (`RDSTATUS` shows the code); and no transaction changes any component of the block's state. -/
def Obligations.FaultedBlockIsFrozen : Prop :=
  ∀ (s : State) (T : TransactionWord) (rest : List HostEvent),
    s.err ≠ 0 → s.script = .transaction T :: rest →
    Completes (step s) fun t =>
      SameBlock s t ∧
      ((splitWord T).dir = .write → t.responses = s.responses ++ [⟨false, 0⟩]) ∧
      (decode T = .op .rdstatus → t.responses = s.responses ++ [⟨true, s.err.zeroExtend 32⟩]) ∧
      ((splitWord T).dir = .read → decode T ≠ .op .rdstatus →
        Completes (step { s with err := 0 }) fun u => t.responses = u.responses)

/-- R230: after a transaction with `ok = 0` the block is faulted and `rdata` was 0; after one with `ok = 1`
`STATUS.ERR` is what it was. So in a run from reset in which every response had `ok = 1`, `STATUS.ERR` is 0. -/
def Obligations.OkTellsWhetherErrChanged : Prop :=
  ∀ (s : State) (T : TransactionWord) (rest : List HostEvent), s.script = .transaction T :: rest →
    Completes (step s) fun t => ∃ r, t.responses = s.responses ++ [r] ∧
      (r.ok = false → t.err ≠ 0 ∧ r.rdata = 0) ∧
      (r.ok = true → t.err = s.err) ∧
      (s.Inv → (∀ q ∈ t.responses, q.ok = true) → t.err = 0)

/-- R217, R44 (d): an operation that does not answer `ok` has no effect at all on `F`, `BUF` or `CSUM`. -/
def Obligations.FaultsArePrecise : Prop :=
  ∀ (s : State) (T : TransactionWord) (rest : List HostEvent), s.script = .transaction T :: rest →
    Completes (step s) fun t => ∀ r, t.responses = s.responses ++ [r] → r.ok = false → SameData s t

/-- R59, R170: a read transaction never changes the block's state, except that it latches a first fault. -/
def Obligations.ReadsChangeNothing : Prop :=
  ∀ (s : State) (T : TransactionWord) (rest : List HostEvent),
    s.script = .transaction T :: rest → (splitWord T).dir = .read →
    Completes (step s) fun t => SameData s t ∧
      (t.err = s.err ∨ (s.err = 0 ∧ t.responses = s.responses ++ [⟨false, 0⟩]))

/-- R20 ("Written by"), R21, R31, R32: who writes what. Only `WRF` writes a field register; only `CKSUM` writes `CSUM`;
only `PACK`, `CKSUM`, `STB` and `STW` write `BUF`; and only `STB` and `STW` write an octet from 20 on. -/
def Obligations.OnlyTheNamedOperationsWrite : Prop :=
  ∀ (i : Instr) (s t : State), exec i s = .next t →
    ((∀ f v, i ≠ .wrf f v) → t.fields = s.fields) ∧
    ((∀ h, i ≠ .cksum h) → t.csum = s.csum) ∧
    (i ≠ .pack → (∀ h, i ≠ .cksum h) → (∀ a v, i ≠ .stb a v) → (∀ a v, i ≠ .stw a v) → t.buf = s.buf) ∧
    ((∀ a v, i ≠ .stb a v) → (∀ a v, i ≠ .stw a v) → ∀ a, 20 ≤ a → t.buf.octet? a = s.buf.octet? a)

/-! ### When each fault is raised (R210 to R215, with the priority of R221) -/

/-- R214: the complete list of causes of `AccessFault`, (a) to (g), on the fields of the transaction word. -/
def Obligations.AccessFaultCauses : Prop :=
  ∀ (s : State) (T : TransactionWord) (rest : List HostEvent),
    s.err = 0 → s.script = .transaction T :: rest →
    Completes (step s) fun t =>
      (t.err = 4 ↔
        ((0x10 ≤ (splitWord T).off.toNat ∧ (splitWord T).off.toNat ≤ 0x1F ∨
          0x40 ≤ (splitWord T).off.toNat ∧ (splitWord T).off.toNat ≤ 0xFFFF) ∨
        ((splitWord T).size = .octet ∧ (splitWord T).off.toNat < 0x10000) ∨
        ((splitWord T).size = .word32 ∧ (splitWord T).off.toNat % 4 ≠ 0) ∨
        ((splitWord T).dir = .read ∧ (splitWord T).off.toNat = 0) ∨
        ((splitWord T).dir = .write ∧
          ((splitWord T).off.toNat = 4 ∨ (splitWord T).off.toNat = 8 ∨ (splitWord T).off.toNat = 0xC)) ∨
        ((splitWord T).size = .octet ∧ 0x10000 ≤ (splitWord T).off.toNat ∧
          s.bufLen.val ≤ (splitWord T).off.toNat - 0x10000) ∨
        ((splitWord T).size = .word32 ∧ 0x10000 ≤ (splitWord T).off.toNat ∧
          s.bufLen.val < (splitWord T).off.toNat - 0x10000 + 4)))

/-- R213: `IllegalCommand` is raised exactly by a word32 write to offset 0 whose data is neither `PACK`'s command word
nor one of `CKSUM`'s. -/
def Obligations.IllegalCommandCauses : Prop :=
  ∀ (s : State) (T : TransactionWord) (rest : List HostEvent),
    s.err = 0 → s.script = .transaction T :: rest →
    Completes (step s) fun t =>
      (t.err = 3 ↔
        (splitWord T).dir = .write ∧ (splitWord T).size = .word32 ∧ (splitWord T).off = 0 ∧
        ¬ ((splitWord T).data.toNat = 1 ∨
          ((splitWord T).data.toNat < 256 ∧ (splitWord T).data.toNat % 16 = 2)))

/-- R215, R171: `FieldRange` is raised exactly by a word32 write to a field register whose data does not fit it. -/
def Obligations.FieldRangeCauses : Prop :=
  ∀ (s : State) (T : TransactionWord) (rest : List HostEvent),
    s.err = 0 → s.script = .transaction T :: rest →
    Completes (step s) fun t =>
      (t.err = 5 ↔
        (splitWord T).dir = .write ∧ (splitWord T).size = .word32 ∧
        (((splitWord T).off = 0x20 ∨ (splitWord T).off = 0x24) ∧ 2 ^ 4 ≤ (splitWord T).data.toNat ∨
         ((splitWord T).off = 0x28 ∨ (splitWord T).off = 0x2C) ∧ 2 ^ 16 ≤ (splitWord T).data.toNat ∨
         ((splitWord T).off = 0x30 ∨ (splitWord T).off = 0x34) ∧ 2 ^ 8 ≤ (splitWord T).data.toNat))

/-- R211: `BufferTooSmall` is raised exactly by `PACK` with `BUF_LEN < 20` and by `CKSUM h` with `h >= 5` and
`4h > BUF_LEN`. -/
def Obligations.BufferTooSmallCauses : Prop :=
  ∀ (s : State) (T : TransactionWord) (rest : List HostEvent),
    s.err = 0 → s.script = .transaction T :: rest →
    Completes (step s) fun t =>
      (t.err = 1 ↔
        (splitWord T).dir = .write ∧ (splitWord T).size = .word32 ∧ (splitWord T).off = 0 ∧
        (((splitWord T).data.toNat = 1 ∧ s.bufLen.val < 20) ∨
         ((splitWord T).data.toNat < 256 ∧ (splitWord T).data.toNat % 16 = 2 ∧
          5 ≤ (splitWord T).data.toNat / 16 ∧ s.bufLen.val < 4 * ((splitWord T).data.toNat / 16))))

/-- R212: `BadHeaderLength` is raised exactly by `CKSUM h` with `h` = 0, 1, 2, 3 or 4, whatever `BUF_LEN` is. -/
def Obligations.BadHeaderLengthCauses : Prop :=
  ∀ (s : State) (T : TransactionWord) (rest : List HostEvent),
    s.err = 0 → s.script = .transaction T :: rest →
    Completes (step s) fun t =>
      (t.err = 2 ↔
        (splitWord T).dir = .write ∧ (splitWord T).size = .word32 ∧ (splitWord T).off = 0 ∧
        (splitWord T).data.toNat < 256 ∧ (splitWord T).data.toNat % 16 = 2 ∧ (splitWord T).data.toNat / 16 < 5)

/-! ### PACK -/

/-- R110, R113, R81: a `PACK` on an unfaulted block with `BUF_LEN >= 20` places the eight registers octet by octet, writes
zero to octets 1, 6, 7, 10 and 11, and leaves everything else alone. -/
def Obligations.PackPlacesEveryField : Prop :=
  ∀ s : State, s.err = 0 → Memory.wf s.bufLen.val s.buf = true → 20 ≤ s.bufLen.val →
    ∃ t, exec .pack s = .next t ∧ Answered s t ⟨true, 0⟩ ∧
      t.fields = s.fields ∧ t.csum = s.csum ∧ t.err = s.err ∧ t.bufLen = s.bufLen ∧
      t.buf.octet? 0 = some (BitVec.ofNat 8 (16 * s.fields.ver.toNat + s.fields.ihl.toNat)) ∧
      t.buf.octet? 1 = some 0 ∧
      t.buf.octet? 2 = some (s.fields.tlen.extractLsb' 8 8) ∧
      t.buf.octet? 3 = some (s.fields.tlen.extractLsb' 0 8) ∧
      t.buf.octet? 4 = some (s.fields.id.extractLsb' 8 8) ∧
      t.buf.octet? 5 = some (s.fields.id.extractLsb' 0 8) ∧
      t.buf.octet? 6 = some 0 ∧
      t.buf.octet? 7 = some 0 ∧
      t.buf.octet? 8 = some s.fields.ttl ∧
      t.buf.octet? 9 = some s.fields.proto ∧
      t.buf.octet? 10 = some 0 ∧
      t.buf.octet? 11 = some 0 ∧
      t.buf.octet? 12 = some (s.fields.src.extractLsb' 24 8) ∧
      t.buf.octet? 13 = some (s.fields.src.extractLsb' 16 8) ∧
      t.buf.octet? 14 = some (s.fields.src.extractLsb' 8 8) ∧
      t.buf.octet? 15 = some (s.fields.src.extractLsb' 0 8) ∧
      t.buf.octet? 16 = some (s.fields.dst.extractLsb' 24 8) ∧
      t.buf.octet? 17 = some (s.fields.dst.extractLsb' 16 8) ∧
      t.buf.octet? 18 = some (s.fields.dst.extractLsb' 8 8) ∧
      t.buf.octet? 19 = some (s.fields.dst.extractLsb' 0 8) ∧
      ∀ a, 20 ≤ a → t.buf.octet? a = s.buf.octet? a

/-- R111, R112: a `PACK` on an unfaulted block with `BUF_LEN < 20` latches code 1, answers `ok = 0`, and writes
nothing. -/
def Obligations.PackIntoSmallBufferWritesNothing : Prop :=
  ∀ s : State, s.err = 0 → s.bufLen.val < 20 →
    exec .pack s = .next { s with err := 1, responses := s.responses ++ [⟨false, 0⟩] }

/-- R116: the extraction functions of R97 return the inputs of a successful `PACK` exactly, and a zero checksum. -/
def Obligations.PackRoundTrip : Prop :=
  ∀ s : State, s.err = 0 → Memory.wf s.bufLen.val s.buf = true → 20 ≤ s.bufLen.val →
    Completes (exec .pack s) fun t => t.buf.parseHeader = ⟨s.fields, 0⟩

/-- R117: after a `PACK`, octet 0 holds `F.VER` in bits 7:4 and `F.IHL` in bits 3:0; whatever the two buffers held and
however long they are, a header octet is the same for two register files that agree on the registers it belongs to; and
a second `PACK`, with one register changed, on a buffer whose tail the first one left, changes only that register's
octets. -/
def Obligations.PackFieldsAreIndependent : Prop :=
  ∀ s₁ s₂ t₁ t₂ : State, s₁.err = 0 → s₂.err = 0 →
    Memory.wf s₁.bufLen.val s₁.buf = true → Memory.wf s₂.bufLen.val s₂.buf = true →
    20 ≤ s₁.bufLen.val → 20 ≤ s₂.bufLen.val →
    exec .pack s₁ = .next t₁ → exec .pack s₂ = .next t₂ →
    (t₁.buf.read8 0).extractLsb' 4 4 = s₁.fields.ver ∧
    (t₁.buf.read8 0).extractLsb' 0 4 = s₁.fields.ihl ∧
    (∀ a, a < 20 → (∀ f, a ∈ fieldOctets f → s₂.fields.read f = s₁.fields.read f) →
      t₂.buf.octet? a = t₁.buf.octet? a) ∧
    (∀ f, (∀ g, g ≠ f → s₂.fields.read g = s₁.fields.read g) →
      (∀ a, 20 ≤ a → s₂.buf.octet? a = t₁.buf.octet? a) →
      ∀ a, a ∉ fieldOctets f → t₂.buf.octet? a = t₁.buf.octet? a)

/-- R118: a second `PACK` with unchanged registers leaves the same buffer, whatever happened to octets 0 to 19 in
between: the result does not depend on what they held. -/
def Obligations.PackDoesNotReadTheBuffer : Prop :=
  ∀ s₁ s₂ t₁ t₂ : State, s₁.err = 0 → s₂.err = 0 → 20 ≤ s₁.bufLen.val → s₂.bufLen = s₁.bufLen →
    Memory.wf s₁.bufLen.val s₁.buf = true → Memory.wf s₂.bufLen.val s₂.buf = true →
    s₂.fields = s₁.fields → (∀ a, 20 ≤ a → s₂.buf.octet? a = s₁.buf.octet? a) →
    exec .pack s₁ = .next t₁ → exec .pack s₂ = .next t₂ → t₂.buf = t₁.buf

/-! ### CKSUM -/

/-- R146, R156: a `CKSUM h` with `5 <= h` and `4h <= BUF_LEN` on an unfaulted block computes `ocsum16` of the `4h` octets
with octets 10 and 11 counted as zero, stores it big-endian in octets 10 and 11 and in `CSUM`, returns it, and leaves
everything else alone. -/
def Obligations.CksumStoresTheChecksum : Prop :=
  ∀ (s : State) (h : BitVec 4), s.err = 0 → Memory.wf s.bufLen.val s.buf = true →
    5 ≤ h.toNat → 4 * h.toNat ≤ s.bufLen.val →
    ∃ t c, exec (.cksum h) s = .next t ∧ c = ocsum16 (s.buf.octetsZeroed (4 * h.toNat)) ∧
      Answered s t ⟨true, c.zeroExtend 32⟩ ∧ t.csum = c ∧
      t.buf.octet? 10 = some (c.extractLsb' 8 8) ∧ t.buf.octet? 11 = some (c.extractLsb' 0 8) ∧
      (∀ a, a ≠ 10 → a ≠ 11 → t.buf.octet? a = s.buf.octet? a) ∧
      t.fields = s.fields ∧ t.err = s.err ∧ t.bufLen = s.bufLen

/-- R147: the faults of `CKSUM`, `h < 5` first; nothing else changes. -/
def Obligations.CksumFaults : Prop :=
  ∀ (s : State) (h : BitVec 4), s.err = 0 →
    (h.toNat < 5 → exec (.cksum h) s = .next { s with err := 2, responses := s.responses ++ [⟨false, 0⟩] }) ∧
    (5 ≤ h.toNat → s.bufLen.val < 4 * h.toNat →
      exec (.cksum h) s = .next { s with err := 1, responses := s.responses ++ [⟨false, 0⟩] })

/-- R150: a second `CKSUM h`, when nothing wrote octets 0 to `4h - 1` but 10 and 11 in between, stores and returns the
same value; with nothing written at all it leaves the buffer as it is. -/
def Obligations.CksumIsIdempotent : Prop :=
  ∀ (s t u v : State) (h : BitVec 4), s.err = 0 → u.err = 0 → Memory.wf s.bufLen.val s.buf = true →
    5 ≤ h.toNat → 4 * h.toNat ≤ s.bufLen.val → u.bufLen = s.bufLen →
    exec (.cksum h) s = .next t →
    (∀ a, a < 4 * h.toNat → a ≠ 10 → a ≠ 11 → u.buf.octet? a = t.buf.octet? a) →
    exec (.cksum h) u = .next v →
    v.csum = t.csum ∧ v.responses = u.responses ++ [⟨true, t.csum.zeroExtend 32⟩] ∧ (u.buf = t.buf → v.buf = t.buf)

/-- R153, R148, R156: the checksum depends on `h` and on the octets 0 to `4h - 1` other than 10 and 11 only: not on a field
register, not on octets 10 and 11, not on the tail, not on the old `CSUM`. -/
def Obligations.CksumDependsOnTheSpanOnly : Prop :=
  ∀ (s₁ s₂ t₁ t₂ : State) (h : BitVec 4), s₁.err = 0 → s₂.err = 0 →
    5 ≤ h.toNat → 4 * h.toNat ≤ s₁.bufLen.val → 4 * h.toNat ≤ s₂.bufLen.val →
    (∀ a, a < 4 * h.toNat → a ≠ 10 → a ≠ 11 → s₂.buf.octet? a = s₁.buf.octet? a) →
    exec (.cksum h) s₁ = .next t₁ → exec (.cksum h) s₂ = .next t₂ → t₂.csum = t₁.csum

/-- R151: after a successful `CKSUM h`, the `2h` word16s of the header, the stored checksum among them, sum and fold to
0xFFFF. -/
def Obligations.ChecksumVerifies : Prop :=
  ∀ (s : State) (h : BitVec 4), s.err = 0 → Memory.wf s.bufLen.val s.buf = true →
    5 ≤ h.toNat → 4 * h.toNat ≤ s.bufLen.val →
    Completes (exec (.cksum h) s) fun t => fold16 (sum16 (words16 (t.buf.octets (4 * h.toNat)))) = 0xFFFF

/-- R149: no special value is substituted. The checksum is 0x0000 exactly when the sum folds to 0xFFFF, and 0xFFFF exactly
when every summed octet is zero; both are stored and returned as computed. -/
def Obligations.SpecialChecksumsStandAsComputed : Prop :=
  ∀ (s : State) (h : BitVec 4), s.err = 0 → Memory.wf s.bufLen.val s.buf = true →
    5 ≤ h.toNat → 4 * h.toNat ≤ s.bufLen.val →
    Completes (exec (.cksum h) s) fun t =>
      (t.csum = 0 ↔ fold16 (sum16 (words16 (s.buf.octetsZeroed (4 * h.toNat)))) = 0xFFFF) ∧
      (t.csum = 0xFFFF ↔ ∀ a, a < 4 * h.toNat → a ≠ 10 → a ≠ 11 → s.buf.octet? a = some 0) ∧
      t.buf.read16 10 = t.csum ∧ t.responses = s.responses ++ [⟨true, t.csum.zeroExtend 32⟩]

/-! ### The arithmetic -/

/-- R140: `words16` partitions the octets into big-endian word16s, an odd last octet padded with zero. -/
def Obligations.Words16Partition : Prop :=
  ∀ B : List Octet, (words16 B).length = (B.length + 1) / 2 ∧
    ∀ k, k < (words16 B).length →
      (words16 B)[k]? = some (cat8 (B.getD (2 * k) 0) (B.getD (2 * k + 1) 0))

/-- R142: the laws of `fold16`: it is the recursion of its loop, its result fits 16 bits, it is 0 exactly for 0, and for a
positive sum it is the one value in 1 to 0xFFFF congruent to it modulo 0xFFFF. -/
def Obligations.Fold16Laws : Prop :=
  ∀ S : Nat,
    fold16 S = (if 0xFFFF < S then fold16 (S / 0x10000 + S % 0x10000) else S) ∧
    fold16 S ≤ 0xFFFF ∧
    (fold16 S = 0 ↔ S = 0) ∧
    ∀ x, 0 < S → (x = fold16 S ↔ 1 ≤ x ∧ x ≤ 0xFFFF ∧ x % 0xFFFF = S % 0xFFFF)

/-- R141, R154: the bound of the sum; the sum of `CKSUM h` is at most `(2h - 1) x 0xFFFF`, because the sixth word16 counts
as zero; and two passes of the fold are enough for it. -/
def Obligations.SumBoundAndTwoPasses : Prop :=
  (∀ w : List Word16, sum16 w ≤ w.length * 0xFFFF) ∧
  ∀ (b : Buffer) (h : BitVec 4), 5 ≤ h.toNat →
    spanSum b (2 * h.toNat) ≤ (2 * h.toNat - 1) * 0xFFFF ∧
    foldPass (foldPass (spanSum b (2 * h.toNat))) ≤ 0xFFFF ∧
    (0xFFFF < spanSum b (2 * h.toNat) →
      fold16 (spanSum b (2 * h.toNat)) = foldPass (spanSum b (2 * h.toNat)) ∨
      fold16 (spanSum b (2 * h.toNat)) = foldPass (foldPass (spanSum b (2 * h.toNat))))

/-- R144: the 16-bit end-around-carry adder computes the same function as the wide sum folded at the end, for every
sequence of word16s; and the end-around-carry addition is commutative and associative on 16-bit values. -/
def Obligations.EndAroundCarryEqualsWideSum : Prop :=
  (∀ w : List Word16, eac w = fold16 (sum16 w)) ∧
  (∀ a b, eacAdd a b = eacAdd b a) ∧
  (∀ a b c, a ≤ 0xFFFF → b ≤ 0xFFFF → c ≤ 0xFFFF → eacAdd (eacAdd a b) c = eacAdd a (eacAdd b c))

/-- R158: adding `x` to one word16 of a sequence, without wrap, changes the folded sum by `x` modulo 0xFFFF; reordering
word16s leaves it; and 0x0000 and 0xFFFF are interchangeable in any position as long as the sum stays non-zero. -/
def Obligations.ChecksumSensitivity : Prop :=
  (∀ (before after : List Word16) (w v : Word16) (x : Nat), v.toNat = w.toNat + x →
    fold16 (sum16 (before ++ v :: after)) % 0xFFFF = (fold16 (sum16 (before ++ w :: after)) + x) % 0xFFFF) ∧
  (∀ w v : List Word16, w.Perm v → fold16 (sum16 w) = fold16 (sum16 v)) ∧
  (∀ before after : List Word16, sum16 (before ++ 0 :: after) ≠ 0 →
    fold16 (sum16 (before ++ 0xFFFF :: after)) = fold16 (sum16 (before ++ 0 :: after)))

/-! ### Field registers -/

/-- R171 to R179: `WRF.VER`, `WRF.IHL`, `WRF.TLEN`, `WRF.ID`, `WRF.TTL`, `WRF.PROTO`, `WRF.SRC`, `WRF.DST` on an unfaulted block:
a value that fits is stored and nothing else changes; one that does not latches `FieldRange` and changes nothing else.
In a faulted block each is refused. -/
def Obligations.WrfStoresOrFaults : Prop :=
  ∀ (s : State) (v : Word32),
    (s.err = 0 →
      (v.toNat ≤ 15 → exec (.wrfVer v) s =
        .next { s with fields := { s.fields with ver := v.extractLsb' 0 4 }, responses := s.responses ++ [⟨true, 0⟩] }) ∧
      (15 < v.toNat → exec (.wrfVer v) s = .next { s with err := 5, responses := s.responses ++ [⟨false, 0⟩] }) ∧
      (v.toNat ≤ 15 → exec (.wrfIhl v) s =
        .next { s with fields := { s.fields with ihl := v.extractLsb' 0 4 }, responses := s.responses ++ [⟨true, 0⟩] }) ∧
      (15 < v.toNat → exec (.wrfIhl v) s = .next { s with err := 5, responses := s.responses ++ [⟨false, 0⟩] }) ∧
      (v.toNat ≤ 0xFFFF → exec (.wrfTlen v) s =
        .next { s with fields := { s.fields with tlen := v.extractLsb' 0 16 }, responses := s.responses ++ [⟨true, 0⟩] }) ∧
      (0xFFFF < v.toNat → exec (.wrfTlen v) s = .next { s with err := 5, responses := s.responses ++ [⟨false, 0⟩] }) ∧
      (v.toNat ≤ 0xFFFF → exec (.wrfId v) s =
        .next { s with fields := { s.fields with id := v.extractLsb' 0 16 }, responses := s.responses ++ [⟨true, 0⟩] }) ∧
      (0xFFFF < v.toNat → exec (.wrfId v) s = .next { s with err := 5, responses := s.responses ++ [⟨false, 0⟩] }) ∧
      (v.toNat ≤ 255 → exec (.wrfTtl v) s =
        .next { s with fields := { s.fields with ttl := v.extractLsb' 0 8 }, responses := s.responses ++ [⟨true, 0⟩] }) ∧
      (255 < v.toNat → exec (.wrfTtl v) s = .next { s with err := 5, responses := s.responses ++ [⟨false, 0⟩] }) ∧
      (v.toNat ≤ 255 → exec (.wrfProto v) s =
        .next { s with fields := { s.fields with proto := v.extractLsb' 0 8 }, responses := s.responses ++ [⟨true, 0⟩] }) ∧
      (255 < v.toNat → exec (.wrfProto v) s = .next { s with err := 5, responses := s.responses ++ [⟨false, 0⟩] }) ∧
      exec (.wrfSrc v) s =
        .next { s with fields := { s.fields with src := v }, responses := s.responses ++ [⟨true, 0⟩] } ∧
      exec (.wrfDst v) s =
        .next { s with fields := { s.fields with dst := v }, responses := s.responses ++ [⟨true, 0⟩] }) ∧
    (s.err ≠ 0 → ∀ f, exec (.wrf f v) s = .next { s with responses := s.responses ++ [⟨false, 0⟩] })

/-- R21, R171, R180: for each of the eight registers, a `WRF` of a value that fits completes, the next `RDF` of that
register returns exactly that value, `RDF` of any other register returns what it returned before, and `BUF`, `CSUM` and
`STATUS.ERR` are untouched. -/
def Obligations.RdfReturnsWhatWrfStored : Prop :=
  ∀ (s : State) (f : Field) (v : Word32), s.err = 0 → v.toNat < 2 ^ fieldWidth f →
    ∃ t, exec (.wrf f v) s = .next t ∧
      t.buf = s.buf ∧ t.csum = s.csum ∧ t.err = s.err ∧ t.bufLen = s.bufLen ∧ Answered s t ⟨true, 0⟩ ∧
      exec (.rdf f) t = .next { t with responses := t.responses ++ [⟨true, v⟩] } ∧
      ∀ g, g ≠ f → ∀ x, exec (.rdf g) s = .next { s with responses := s.responses ++ [⟨true, x⟩] } →
        exec (.rdf g) t = .next { t with responses := t.responses ++ [⟨true, x⟩] }

/-- R180 to R188: `RDF.VER`, `RDF.IHL`, `RDF.TLEN`, `RDF.ID`, `RDF.TTL`, `RDF.PROTO`, `RDF.SRC`, `RDF.DST` complete in every state,
faulted or not, return the register zero-extended (so the bits of `rdata` above its width are 0), and change nothing;
each with its canonical transaction word. -/
def Obligations.RdfReturnsTheRegister : Prop :=
  ∀ s : State,
    decode 0x2002000000000 = .op .rdfVer ∧
    exec .rdfVer s = .next { s with responses := s.responses ++ [⟨true, s.fields.ver.zeroExtend 32⟩] } ∧
    (s.fields.ver.zeroExtend 32).toNat < 2 ^ 4 ∧
    decode 0x2002400000000 = .op .rdfIhl ∧
    exec .rdfIhl s = .next { s with responses := s.responses ++ [⟨true, s.fields.ihl.zeroExtend 32⟩] } ∧
    (s.fields.ihl.zeroExtend 32).toNat < 2 ^ 4 ∧
    decode 0x2002800000000 = .op .rdfTlen ∧
    exec .rdfTlen s = .next { s with responses := s.responses ++ [⟨true, s.fields.tlen.zeroExtend 32⟩] } ∧
    (s.fields.tlen.zeroExtend 32).toNat < 2 ^ 16 ∧
    decode 0x2002C00000000 = .op .rdfId ∧
    exec .rdfId s = .next { s with responses := s.responses ++ [⟨true, s.fields.id.zeroExtend 32⟩] } ∧
    (s.fields.id.zeroExtend 32).toNat < 2 ^ 16 ∧
    decode 0x2003000000000 = .op .rdfTtl ∧
    exec .rdfTtl s = .next { s with responses := s.responses ++ [⟨true, s.fields.ttl.zeroExtend 32⟩] } ∧
    (s.fields.ttl.zeroExtend 32).toNat < 2 ^ 8 ∧
    decode 0x2003400000000 = .op .rdfProto ∧
    exec .rdfProto s = .next { s with responses := s.responses ++ [⟨true, s.fields.proto.zeroExtend 32⟩] } ∧
    (s.fields.proto.zeroExtend 32).toNat < 2 ^ 8 ∧
    decode 0x2003800000000 = .op .rdfSrc ∧
    exec .rdfSrc s = .next { s with responses := s.responses ++ [⟨true, s.fields.src⟩] } ∧
    decode 0x2003C00000000 = .op .rdfDst ∧
    exec .rdfDst s = .next { s with responses := s.responses ++ [⟨true, s.fields.dst⟩] }

/-- R189 to R191: `RDSTATUS`, `RDCSUM` and `RDBUFLEN` complete in every state, return `STATUS.ERR`, `CSUM` and `BUF_LEN`
zero-extended, and change nothing; reading does not clear `ERR`. -/
def Obligations.StatusReadsReturnTheirRegisters : Prop :=
  ∀ s : State,
    exec .rdstatus s = .next { s with responses := s.responses ++ [⟨true, s.err.zeroExtend 32⟩] } ∧
    exec .rdcsum s = .next { s with responses := s.responses ++ [⟨true, s.csum.zeroExtend 32⟩] } ∧
    exec .rdbuflen s = .next { s with responses := s.responses ++ [⟨true, BitVec.ofNat 32 s.bufLen.val⟩] }

/-! ### Buffer loads and stores -/

/-- R192: `LDB i` returns octet `i` zero-extended, in a faulted block too, and changes nothing; outside `BUF` it is an
`AccessFault`. -/
def Obligations.LdbReturnsTheOctet : Prop :=
  ∀ (s : State) (i : BufIndex),
    (∀ x, i.toNat < s.bufLen.val → s.buf.octet? i.toNat = some x →
      exec (.ldb i) s = .next { s with responses := s.responses ++ [⟨true, x.zeroExtend 32⟩] }) ∧
    (s.bufLen.val ≤ i.toNat →
      exec (.ldb i) s = .next { s with
        err := if s.err = 0 then 4 else s.err, responses := s.responses ++ [⟨false, 0⟩] })

/-- R194, R55: `LDW i` at a multiple of 4 with all four octets inside `BUF` returns them big-endian, in a faulted block too,
and changes nothing; with an octet outside `BUF` it is an `AccessFault`. That the term `LDW i` at a misaligned index, which no
word decodes to, is an `AccessFault` too is the model's choice (entry 7, DEDUCED). -/
def Obligations.LdwReturnsFourOctets : Prop :=
  ∀ (s : State) (i : BufIndex),
    (∀ x₀ x₁ x₂ x₃ : Octet, i.toNat % 4 = 0 → i.toNat + 4 ≤ s.bufLen.val →
      s.buf.octet? i.toNat = some x₀ → s.buf.octet? (i.toNat + 1) = some x₁ →
      s.buf.octet? (i.toNat + 2) = some x₂ → s.buf.octet? (i.toNat + 3) = some x₃ →
      exec (.ldw i) s = .next { s with responses := s.responses ++
        [⟨true, BitVec.ofNat 32 (x₀.toNat * 2 ^ 24 + x₁.toNat * 2 ^ 16 + x₂.toNat * 2 ^ 8 + x₃.toNat)⟩] }) ∧
    (i.toNat % 4 ≠ 0 ∨ s.bufLen.val < i.toNat + 4 →
      exec (.ldw i) s = .next { s with
        err := if s.err = 0 then 4 else s.err, responses := s.responses ++ [⟨false, 0⟩] })

/-- R193: `STB i, v` inside `BUF` on an unfaulted block writes octet `i` and nothing else; outside `BUF` it is an
`AccessFault`; in a faulted block it is refused. -/
def Obligations.StbStoresOneOctet : Prop :=
  ∀ (s : State) (i : BufIndex) (v : Octet),
    (s.err = 0 → Memory.wf s.bufLen.val s.buf = true → i.toNat < s.bufLen.val →
      ∃ t, exec (.stb i v) s = .next t ∧ Answered s t ⟨true, 0⟩ ∧
        t.buf.octet? i.toNat = some v ∧ (∀ a, a ≠ i.toNat → t.buf.octet? a = s.buf.octet? a) ∧
        t.fields = s.fields ∧ t.csum = s.csum ∧ t.err = s.err ∧ t.bufLen = s.bufLen) ∧
    (s.err = 0 → s.bufLen.val ≤ i.toNat →
      exec (.stb i v) s = .next { s with err := 4, responses := s.responses ++ [⟨false, 0⟩] }) ∧
    (s.err ≠ 0 → exec (.stb i v) s = .next { s with responses := s.responses ++ [⟨false, 0⟩] })

/-- R195, R53: `STW i, v` at a multiple of 4 with all four octets inside `BUF` on an unfaulted block writes the four octets
big-endian and nothing else; with an octet outside `BUF` it is an `AccessFault` and nothing is written, not even the octets
that exist; in a faulted block it is refused. That the term `STW i` at a misaligned index, which no word decodes to, is an
`AccessFault` too is the model's choice (entry 7, DEDUCED). -/
def Obligations.StwStoresFourOctets : Prop :=
  ∀ (s : State) (i : BufIndex) (v : Word32),
    (s.err = 0 → Memory.wf s.bufLen.val s.buf = true → i.toNat % 4 = 0 → i.toNat + 4 ≤ s.bufLen.val →
      ∃ t, exec (.stw i v) s = .next t ∧ Answered s t ⟨true, 0⟩ ∧
        (∀ k, k < 4 → t.buf.octet? (i.toNat + k) = some (v.extractLsb' (24 - 8 * k) 8)) ∧
        (∀ a, a < i.toNat ∨ i.toNat + 4 ≤ a → t.buf.octet? a = s.buf.octet? a) ∧
        t.fields = s.fields ∧ t.csum = s.csum ∧ t.err = s.err ∧ t.bufLen = s.bufLen) ∧
    (s.err = 0 → i.toNat % 4 ≠ 0 ∨ s.bufLen.val < i.toNat + 4 →
      exec (.stw i v) s = .next { s with err := 4, responses := s.responses ++ [⟨false, 0⟩] }) ∧
    (s.err ≠ 0 → exec (.stw i v) s = .next { s with responses := s.responses ++ [⟨false, 0⟩] })

/-- R67: an access of one width sees exactly what accesses of other widths left. After `STW i, v`, `LDB` of each of the four
octets returns that octet of `v`; after four `STB`s, `LDW` returns the four octets stored, big-endian. -/
def Obligations.WidthsSeeEachOther : Prop :=
  ∀ (s : State) (i : BufIndex), s.err = 0 → Memory.wf s.bufLen.val s.buf = true →
    i.toNat % 4 = 0 → i.toNat + 4 ≤ s.bufLen.val →
    (∀ v : Word32, Completes (exec (.stw i v) s) fun t =>
      ∀ k, k < 4 → Completes (exec (.ldb (i + BitVec.ofNat 16 k)) t) fun u =>
        u.responses = t.responses ++ [⟨true, (v.extractLsb' (24 - 8 * k) 8).zeroExtend 32⟩]) ∧
    (∀ x₀ x₁ x₂ x₃ : Octet, Completes (exec (.stb i x₀) s) fun t₀ => Completes (exec (.stb (i + 1) x₁) t₀) fun t₁ =>
      Completes (exec (.stb (i + 2) x₂) t₁) fun t₂ => Completes (exec (.stb (i + 3) x₃) t₂) fun t₃ =>
      Completes (exec (.ldw i) t₃) fun u => u.responses = t₃.responses ++
        [⟨true, BitVec.ofNat 32 (x₀.toNat * 2 ^ 24 + x₁.toNat * 2 ^ 16 + x₂.toNat * 2 ^ 8 + x₃.toNat)⟩])

/-! ### The finished header -/

/-- R113, R116, R151, R197 (steps 3b and 4): `PACK` and then `CKSUM` with `h = F.IHL`, when the header fits, leave a header that
reads back as the eight registers, carries the checksum of `CSUM`, sums to 0xFFFF with it, and leaves the tail alone. -/
def Obligations.BuildMakesASealedHeader : Prop :=
  ∀ s : State, s.err = 0 → Memory.wf s.bufLen.val s.buf = true → 5 ≤ s.fields.ihl.toNat →
    4 * s.fields.ihl.toNat ≤ s.bufLen.val →
    Completes (exec .pack s) fun t => Completes (exec (.cksum s.fields.ihl) t) fun u =>
      u.buf.parseHeader = ⟨s.fields, u.csum⟩ ∧
      fold16 (sum16 (words16 (u.buf.octets (4 * s.fields.ihl.toNat)))) = 0xFFFF ∧
      (∀ a, 20 ≤ a → u.buf.octet? a = s.buf.octet? a) ∧
      u.fields = s.fields ∧ u.err = 0 ∧ u.responses = s.responses ++ [⟨true, 0⟩, ⟨true, u.csum.zeroExtend 32⟩]

/-- R261: under the premises `Reset`, `NoFault`, `FieldsWritten`, `TailWritten` and `Sealed`, octets 0 to `F.TLEN - 1` of the
final buffer, the registers and `CSUM` are a function of the host's script alone: two runs of one script from reset
states with different draws end with the same ones. The premise `4 x F.IHL <= F.TLEN` (one clause of `ValidValues`) is
added: R261 does not name it for this conclusion, and without it the checksum can cover option octets past `F.TLEN` that
no premise says were written (entry 9). -/
def Obligations.FinishedDatagramHoldsNoDraw : Prop :=
  ∀ (s₁ s₂ t₁ t₂ : State) (ops : List Instr),
    s₁.FreshReset → s₂.FreshReset → s₂.bufLen = s₁.bufLen → s₂.script = s₁.script →
    scriptOps s₁.script = some ops →
    Host.Core.run core s₁.script.length s₁ = .next t₁ → Host.Core.run core s₁.script.length s₂ = .next t₂ →
    t₁.NoFault → FieldsWritten ops → TailWritten ops t₁.fields.tlen.toNat → Sealed ops t₁.fields.ihl →
    4 * t₁.fields.ihl.toNat ≤ t₁.fields.tlen.toNat →
    t₂.NoFault ∧ t₂.fields = t₁.fields ∧ t₂.csum = t₁.csum ∧
    ∀ a, a < t₁.fields.tlen.toNat → t₂.buf.octet? a = t₁.buf.octet? a

/-! ### Validity, apart from placement (R115, R261) -/

/-- R115: a `PACK` on an unfaulted block with `BUF_LEN >= 20` succeeds whatever the registers hold, and the header it leaves is
syntactically valid, its checksum field at zero, exactly when `F.VER = 4` and `F.IHL = 5`. The placement, which holds for
every input, is PackPlacesEveryField. What "syntactically valid" asks of the octets is the model's reading (entry 13,
DEDUCED). -/
def Obligations.PackIsValidExactlyForVersionFourLengthFive : Prop :=
  ∀ s : State, s.err = 0 → Memory.wf s.bufLen.val s.buf = true → 20 ≤ s.bufLen.val →
    Completes (exec .pack s) fun t =>
      t.responses = s.responses ++ [⟨true, 0⟩] ∧
      (t.buf.SyntacticallyValid ↔ s.fields.ver = 4 ∧ s.fields.ihl = 5)

/-- R261: under `ValidValues` and `Fits`, `PACK` and then `CKSUM` with `h = F.IHL` leave a buffer whose header
reads version 4, a length of at least five word32s, a total length that covers the header and lies inside `BUF`, and
whose checksum verifies. That these are what an IPv4 datagram asks is the model's reading (entry 13, DEDUCED). -/
def Obligations.ValidValuesMakeADatagram : Prop :=
  ∀ s : State, s.err = 0 → Memory.wf s.bufLen.val s.buf = true → s.Fits → s.ValidValues →
    Completes (exec .pack s) fun t => Completes (exec (.cksum s.fields.ihl) t) fun u =>
      u.err = 0 ∧ u.buf.IsDatagram u.bufLen.val
end

