-- ==== Sys2Proof/Laws/Buffer.lean ====
section
/-! SUPPORT. The laws of the buffer: a read after a write, and that every write keeps the canonical form. -/

namespace Sys2Proof.Machine

/-! ### Reads after writes -/

/-- All that a list of octet writes does: an octet that exists takes the value the list names for it, if any (R12). -/
theorem Buffer.octet?_writeAll (b : Buffer) (w : List (Nat × Octet)) (j : Nat) :
    (b.writeAll w).octet? j = (b.octet? j).map fun x => (Buffer.octet? w j).getD x := by
  induction b with
  | nil => rfl
  | cons c rest ih =>
    obtain ⟨a, x⟩ := c
    rw [Buffer.writeAll, List.map_cons, Buffer.octet?, Buffer.octet?]
    split
    · subst_vars; rfl
    · exact ih

/-- An octet that the list does not name keeps its value. -/
theorem Buffer.octet?_writeAll_of_none (b : Buffer) {w : List (Nat × Octet)} {j : Nat}
    (h : Buffer.octet? w j = none) : (b.writeAll w).octet? j = b.octet? j := by
  simp [Buffer.octet?_writeAll, h]

/-- An existing octet that the list names holds the value named. -/
theorem Buffer.read8_writeAll_of_some {b : Buffer} {w : List (Nat × Octet)} {j : Nat} {v : Octet}
    (hj : (b.octet? j).isSome = true) (h : Buffer.octet? w j = some v) : (b.writeAll w).read8 j = v := by
  obtain ⟨x, hx⟩ := Option.isSome_iff_exists.mp hj
  simp [Buffer.read8, Buffer.octet?_writeAll, h, hx]

theorem Buffer.read8_congr {b c : Buffer} {j : Nat} (h : b.octet? j = c.octet? j) : b.read8 j = c.read8 j := by
  rw [Buffer.read8, h, Buffer.read8]

/-- A write neither makes nor removes an octet (R44 (c)). -/
@[simp] theorem Buffer.isSome_octet?_writeAll (b : Buffer) (w : List (Nat × Octet)) (j : Nat) :
    ((b.writeAll w).octet? j).isSome = (b.octet? j).isSome := by
  simp [Buffer.octet?_writeAll]

/-- An octet write leaves every other octet alone (R53). -/
theorem Buffer.octet?_write8_of_ne (b : Buffer) {i j : Nat} (v : Octet) (h : j ≠ i) :
    (b.write8 i v).octet? j = b.octet? j :=
  b.octet?_writeAll_of_none (by simp [Buffer.octet?, Ne.symm h])

/-- A two-octet write leaves every other octet alone (R53). -/
theorem Buffer.octet?_write16_of_outside (b : Buffer) {i j : Nat} (v : Word16) (h : j < i ∨ i + 2 ≤ j) :
    (b.write16 i v).octet? j = b.octet? j := by
  apply b.octet?_writeAll_of_none
  simp only [Buffer.octet?]
  rw [if_neg (by omega), if_neg (by omega)]

/-- A four-octet write leaves every other octet alone (R53). -/
theorem Buffer.octet?_write32_of_outside (b : Buffer) {i j : Nat} (v : Word32) (h : j < i ∨ i + 4 ≤ j) :
    (b.write32 i v).octet? j = b.octet? j := by
  apply b.octet?_writeAll_of_none
  simp only [Buffer.octet?]
  rw [if_neg (by omega), if_neg (by omega), if_neg (by omega), if_neg (by omega)]

/-- The octet written reads back (R60). -/
theorem Buffer.read8_write8_self {b : Buffer} {i : Nat} (v : Octet) (h : (b.octet? i).isSome = true) :
    (b.write8 i v).read8 i = v :=
  Buffer.read8_writeAll_of_some h (by simp [Buffer.octet?])

/-! ### The canonical form -/

@[simp] theorem Buffer.keys_writeAll (b : Buffer) (w : List (Nat × Octet)) :
    (b.writeAll w).map Prod.fst = b.map Prod.fst := by
  simp [Buffer.writeAll, Function.comp_def]

@[simp] theorem Memory.wf_writeAll (n : Nat) (b : Buffer) (w : List (Nat × Octet)) :
    Memory.wf n (b.writeAll w) = Memory.wf n b := by simp [Memory.wf]

@[simp] theorem Memory.wf_write8 (n : Nat) (b : Buffer) (i : Nat) (v : Octet) :
    Memory.wf n (b.write8 i v) = Memory.wf n b := Memory.wf_writeAll n b _

@[simp] theorem Memory.wf_write16 (n : Nat) (b : Buffer) (i : Nat) (v : Word16) :
    Memory.wf n (b.write16 i v) = Memory.wf n b := Memory.wf_writeAll n b _

@[simp] theorem Memory.wf_write32 (n : Nat) (b : Buffer) (i : Nat) (v : Word32) :
    Memory.wf n (b.write32 i v) = Memory.wf n b := Memory.wf_writeAll n b _

/-- The buffer after reset is in canonical form (R41). -/
@[simp] theorem Memory.wf_drawn (len n : Nat) : Memory.wf len (Buffer.drawn len n) = true := by
  simp [Memory.wf, Buffer.drawn, Function.comp_def]

/-- An octet is listed exactly when its index is among the buffer's. -/
theorem Buffer.isSome_octet?_iff_mem (b : Buffer) (i : Nat) :
    (b.octet? i).isSome = true ↔ i ∈ b.map Prod.fst := by
  induction b with
  | nil => simp [Buffer.octet?]
  | cons c rest ih =>
    obtain ⟨a, v⟩ := c
    unfold Buffer.octet?
    split
    · simp [*]
    · rw [ih]; simp [Ne.symm ‹a ≠ i›]

/-- In canonical form octet `i` exists exactly when `i < BUF_LEN` (R52). -/
theorem Memory.wf.isSome_iff {n : Nat} {b : Buffer} (h : Memory.wf n b = true) (i : Nat) :
    (b.octet? i).isSome = true ↔ i < n := by
  rw [Buffer.isSome_octet?_iff_mem, eq_of_beq h, List.mem_range]

/-! ### The header image -/

/-- The header image names no octet from 20 on (R113). -/
theorem octet?_headerImage_of_ge (r : Fields) {j : Nat} (h : 20 ≤ j) : Buffer.octet? (headerImage r) j = none := by
  simp only [headerImage, Buffer.octet?]
  repeat rw [if_neg (by omega)]

/-- The header image names every octet below 20 (R81). -/
theorem isSome_octet?_headerImage (r : Fields) {j : Nat} (h : j < 20) :
    (Buffer.octet? (headerImage r) j).isSome = true :=
  (Buffer.isSome_octet?_iff_mem _ j).mpr (List.mem_range.mpr h)

/-- Everything `PACK` does to a buffer that holds a header: octets 0 to 19 take the header image, the others keep
their own (R110, R113). -/
theorem State.octet?_packed {s : State} (wf : Memory.wf s.bufLen.val s.buf = true) (hl : 20 ≤ s.bufLen.val) (j : Nat) :
    s.packed.buf.octet? j = if j < 20 then Buffer.octet? (headerImage s.fields) j else s.buf.octet? j := by
  rw [State.packed, Buffer.octet?_writeAll]
  split
  · obtain ⟨x, hx⟩ := Option.isSome_iff_exists.mp ((Memory.wf.isSome_iff wf j).mpr (by omega))
    obtain ⟨y, hy⟩ := Option.isSome_iff_exists.mp (isSome_octet?_headerImage s.fields ‹j < 20›)
    simp [hx, hy]
  · simp [octet?_headerImage_of_ge s.fields (Nat.le_of_not_lt ‹¬j < 20›)]

/-! ### Equality of buffers -/

/-- Canonical buffers that read alike are the same data. -/
theorem Memory.wf.ext {n : Nat} {b c : Buffer} (hb : Memory.wf n b = true) (hc : Memory.wf n c = true)
    (h : ∀ i, i < n → b.octet? i = c.octet? i) : b = c := by
  have key : ∀ (l : List Nat), l.Nodup → ∀ b c : Buffer, b.map Prod.fst = l → c.map Prod.fst = l →
      (∀ i ∈ l, b.octet? i = c.octet? i) → b = c := by
    intro l
    induction l with
    | nil => intro _ b c hb hc _; simp_all
    | cons a l ih =>
      intro nd b c hb hc hr
      obtain ⟨⟨a1, v⟩, b, rfl⟩ : ∃ p q, b = p :: q := by cases b <;> simp_all
      obtain ⟨⟨a2, w⟩, c, rfl⟩ : ∃ p q, c = p :: q := by cases c <;> simp_all
      simp only [List.map_cons, List.cons.injEq] at hb hc
      obtain ⟨rfl, hb⟩ := hb
      obtain ⟨rfl, hc⟩ := hc
      have hv := hr a2 (by simp)
      simp only [Buffer.octet?, if_true, Option.some.injEq] at hv
      rw [List.nodup_cons] at nd
      have := ih nd.2 b c hb hc fun i hi => by
        have hne : a2 ≠ i := fun e => nd.1 (e ▸ hi)
        simpa [Buffer.octet?, hne] using hr i (by simp [hi])
      rw [hv, this]
  exact key _ List.nodup_range b c (eq_of_beq hb) (eq_of_beq hc) (by simpa using h)

end Sys2Proof.Machine
end

