-- ==== Sys2Proof/Laws/Checksum.lean ====
section
/-! SUPPORT. The laws of the checksum's parts: the fold's loop, the sum, and what the summation loop reads. -/

namespace Sys2Proof.Machine

/-- A pass lowers every sum that is too wide (R142). -/
theorem foldPass_lt {S : Nat} (h : 0xFFFF < S) : foldPass S < S := by unfold foldPass; omega

/-- Passes beyond those the loop needs change nothing: the bound of `fold16` is no part of its meaning (R142). -/
theorem foldLoop_of_le (f g S : Nat) (hf : S ≤ f) (hg : S ≤ g) : foldLoop f S = foldLoop g S := by
  induction f generalizing g S with
  | zero =>
    obtain rfl : S = 0 := by omega
    cases g <;> simp [foldLoop]
  | succ f ih =>
    cases g with
    | zero =>
      obtain rfl : S = 0 := by omega
      simp [foldLoop]
    | succ g =>
      simp only [foldLoop]
      split
      · have := foldPass_lt ‹0xFFFF < S›
        exact ih g _ (by omega) (by omega)
      · rfl

theorem sum16_append (v w : List Word16) : sum16 (v ++ w) = sum16 v + sum16 w := by
  induction v with
  | nil => simp [sum16]
  | cons x xs ih => simp [sum16, ih]; omega

/-- Two octets after an even number of them are one more word16 (R140). -/
theorem words16_append_pair (l : List Octet) (x y : Octet) (h : l.length % 2 = 0) :
    words16 (l ++ [x, y]) = words16 l ++ [cat8 x y] := by
  induction l using words16.induct with
  | case1 => simp [words16]
  | case2 z => simp at h
  | case3 a b rest ih =>
    simp only [List.length_cons] at h
    simp [words16, ih (by omega)]

/-- The summation loop reads the octets of the span but 10 and 11, nothing else (R148, R153). -/
theorem spanSum_congr {b c : Buffer} (n : Nat)
    (h : ∀ a, a < 2 * n → a ≠ 10 → a ≠ 11 → c.octet? a = b.octet? a) : spanSum c n = spanSum b n := by
  induction n with
  | zero => rfl
  | succ n ih =>
    rw [spanSum, spanSum, ih fun a ha => h a (by omega)]
    congr 1
    unfold spanWord
    split
    · rfl
    · rw [Buffer.read16, Buffer.read16, Buffer.read8_congr (h (2 * n) (by omega) (by omega) (by omega)),
        Buffer.read8_congr (h (2 * n + 1) (by omega) (by omega) (by omega))]

end Sys2Proof.Machine
end

