-- ==== Sys2Proof/Laws/Word.lean ====
section
/-! SUPPORT. Concatenation and slices undo each other (R11). -/

namespace Sys2Proof

@[simp] theorem toNat_cat4 (a b : BitVec 4) : (cat4 a b).toNat = a.toNat * 16 + b.toNat := by
  rw [cat4, BitVec.toNat_cast, BitVec.toNat_append, ← Nat.shiftLeft_add_eq_or_of_lt b.isLt, Nat.shiftLeft_eq]

@[simp] theorem toNat_cat8 (a b : Octet) : (cat8 a b).toNat = a.toNat * 256 + b.toNat := by
  rw [cat8, BitVec.toNat_cast, BitVec.toNat_append, ← Nat.shiftLeft_add_eq_or_of_lt b.isLt, Nat.shiftLeft_eq]

@[simp] theorem toNat_cat16 (a b : Word16) : (cat16 a b).toNat = a.toNat * 65536 + b.toNat := by
  rw [cat16, BitVec.toNat_cast, BitVec.toNat_append, ← Nat.shiftLeft_add_eq_or_of_lt b.isLt, Nat.shiftLeft_eq]

theorem toNat_extractLsb' {w : Nat} (x : BitVec w) (i n : Nat) :
    (x.extractLsb' i n).toNat = x.toNat / 2 ^ i % 2 ^ n := by
  simp [Nat.shiftRight_eq_div_pow]

@[simp] theorem cat4_high (a b : BitVec 4) : (cat4 a b).extractLsb' 4 4 = a := by
  apply BitVec.eq_of_toNat_eq
  rw [toNat_extractLsb', toNat_cat4]
  omega

@[simp] theorem cat4_low (a b : BitVec 4) : (cat4 a b).extractLsb' 0 4 = b := by
  apply BitVec.eq_of_toNat_eq
  rw [toNat_extractLsb', toNat_cat4]
  omega

@[simp] theorem cat8_high (a b : Octet) : (cat8 a b).extractLsb' 8 8 = a := by
  apply BitVec.eq_of_toNat_eq
  rw [toNat_extractLsb', toNat_cat8]
  omega

@[simp] theorem cat8_low (a b : Octet) : (cat8 a b).extractLsb' 0 8 = b := by
  apply BitVec.eq_of_toNat_eq
  rw [toNat_extractLsb', toNat_cat8]
  omega

/-- A word16 is its two octets, the high one first. -/
@[simp] theorem cat8_octets (v : Word16) : cat8 (v.extractLsb' 8 8) (v.extractLsb' 0 8) = v := by
  apply BitVec.eq_of_toNat_eq
  rw [toNat_cat8, toNat_extractLsb', toNat_extractLsb']
  omega

/-- A word32 is its four octets, the highest one first. -/
@[simp] theorem cat16_octets (v : Word32) :
    cat16 (cat8 (v.extractLsb' 24 8) (v.extractLsb' 16 8)) (cat8 (v.extractLsb' 8 8) (v.extractLsb' 0 8)) = v := by
  apply BitVec.eq_of_toNat_eq
  simp only [toNat_cat16, toNat_cat8, toNat_extractLsb']
  omega

end Sys2Proof
end

