-- ==== Sys2Proof/Laws/Encoding.lean ====
section
/-! SUPPORT. The transaction word and its four fields are the same thing (R87). -/

namespace Sys2Proof

/-- The number a joined word stands for (R93). -/
theorem toNat_joinWord (t : Transaction) : (joinWord t).toNat =
    dirBit t.dir * 2 ^ 50 + sizeBit t.size * 2 ^ 49 + t.off.toNat * 2 ^ 32 + t.data.toNat := by
  have h1 : dirBit t.dir ≤ 1 := by cases t.dir <;> decide
  have h2 : sizeBit t.size ≤ 1 := by cases t.size <;> decide
  have h3 := t.off.isLt
  have h4 := t.data.isLt
  rw [joinWord, BitVec.toNat_ofNat, Nat.mod_eq_of_lt (by omega)]

/-- The `dir` bit of a word, as a number. -/
theorem dirBit_splitWord (T : TransactionWord) : dirBit (splitWord T).dir = T.toNat / 2 ^ 50 := by
  have hT := T.isLt
  have hb : T.getLsbD 50 = decide (T.toNat / 2 ^ 50 % 2 = 1) := by
    rw [BitVec.getLsbD, Nat.testBit_eq_decide_div_mod_eq]
  simp only [splitWord, hb, decide_eq_true_eq]
  split
  · rw [dirBit]; omega
  · rw [dirBit]; omega

/-- The `size` bit of a word, as a number. -/
theorem sizeBit_splitWord (T : TransactionWord) : sizeBit (splitWord T).size = T.toNat / 2 ^ 49 % 2 := by
  have hb : T.getLsbD 49 = decide (T.toNat / 2 ^ 49 % 2 = 1) := by
    rw [BitVec.getLsbD, Nat.testBit_eq_decide_div_mod_eq]
  simp only [splitWord, hb, decide_eq_true_eq]
  split
  · rw [sizeBit]; omega
  · rw [sizeBit]; omega

/-- The offset of a word, as a number. -/
theorem toNat_off_splitWord (T : TransactionWord) : (splitWord T).off.toNat = T.toNat / 2 ^ 32 % 2 ^ 17 :=
  toNat_extractLsb' T 32 17

/-- The data of a word, as a number. -/
theorem toNat_data_splitWord (T : TransactionWord) : (splitWord T).data.toNat = T.toNat % 2 ^ 32 := by
  have h := toNat_extractLsb' T 0 32
  rwa [Nat.pow_zero, Nat.div_one] at h

theorem dirBit_injective {a b : Dir} (h : dirBit a = dirBit b) : a = b := by
  cases a <;> cases b <;> first | rfl | (exact absurd h (by decide))

theorem sizeBit_injective {a b : Size} (h : sizeBit a = sizeBit b) : a = b := by
  cases a <;> cases b <;> first | rfl | (exact absurd h (by decide))

/-- Splitting a word that was joined gives the fields back. -/
@[simp] theorem splitWord_joinWord (t : Transaction) : splitWord (joinWord t) = t := by
  have h1 : dirBit t.dir ≤ 1 := by cases t.dir <;> decide
  have h2 : sizeBit t.size ≤ 1 := by cases t.size <;> decide
  have h3 := t.off.isLt
  have h4 := t.data.isLt
  have e := toNat_joinWord t
  have hd : (splitWord (joinWord t)).dir = t.dir :=
    dirBit_injective (by rw [dirBit_splitWord, e]; omega)
  have hs : (splitWord (joinWord t)).size = t.size :=
    sizeBit_injective (by rw [sizeBit_splitWord, e]; omega)
  have ho : (splitWord (joinWord t)).off = t.off :=
    BitVec.eq_of_toNat_eq (by rw [toNat_off_splitWord, e]; omega)
  have ha : (splitWord (joinWord t)).data = t.data :=
    BitVec.eq_of_toNat_eq (by rw [toNat_data_splitWord, e]; omega)
  cases hq : splitWord (joinWord t)
  cases t
  simp_all

/-- Joining the fields of a word gives the word back. -/
@[simp] theorem joinWord_splitWord (T : TransactionWord) : joinWord (splitWord T) = T := by
  have hT := T.isLt
  apply BitVec.eq_of_toNat_eq
  rw [toNat_joinWord, dirBit_splitWord, sizeBit_splitWord, toNat_off_splitWord, toNat_data_splitWord]
  omega

end Sys2Proof
end

