-- ==== Sys2Proof/Laws/PerInstr.lean ====
section
/-! SUPPORT. Per-instruction families: statements about every instruction as syntax, one lemma per constructor. -/

namespace Sys2Proof.Laws.DirBit

/-- The `dir` bit of an instruction's word says whether it is a read or a write operation (R87, R170: "Read operations
are ... every `T` with `dir = 0`"). -/
def Statement (i : Instr) : Prop :=
  (splitWord (encode i)).dir = if i.isRead then .read else .write

theorem pack : Statement (.pack) := by
  rw [Statement, encode, splitWord_joinWord]; rfl

theorem cksum (h : BitVec 4) : Statement (.cksum h) := by
  rw [Statement, encode, splitWord_joinWord]; rfl

theorem wrfVer (v : Word32) : Statement (.wrfVer v) := by
  rw [Statement, encode, splitWord_joinWord]; rfl

theorem wrfIhl (v : Word32) : Statement (.wrfIhl v) := by
  rw [Statement, encode, splitWord_joinWord]; rfl

theorem wrfTlen (v : Word32) : Statement (.wrfTlen v) := by
  rw [Statement, encode, splitWord_joinWord]; rfl

theorem wrfId (v : Word32) : Statement (.wrfId v) := by
  rw [Statement, encode, splitWord_joinWord]; rfl

theorem wrfTtl (v : Word32) : Statement (.wrfTtl v) := by
  rw [Statement, encode, splitWord_joinWord]; rfl

theorem wrfProto (v : Word32) : Statement (.wrfProto v) := by
  rw [Statement, encode, splitWord_joinWord]; rfl

theorem wrfSrc (v : Word32) : Statement (.wrfSrc v) := by
  rw [Statement, encode, splitWord_joinWord]; rfl

theorem wrfDst (v : Word32) : Statement (.wrfDst v) := by
  rw [Statement, encode, splitWord_joinWord]; rfl

theorem rdfVer : Statement (.rdfVer) := by
  rw [Statement, encode, splitWord_joinWord]; rfl

theorem rdfIhl : Statement (.rdfIhl) := by
  rw [Statement, encode, splitWord_joinWord]; rfl

theorem rdfTlen : Statement (.rdfTlen) := by
  rw [Statement, encode, splitWord_joinWord]; rfl

theorem rdfId : Statement (.rdfId) := by
  rw [Statement, encode, splitWord_joinWord]; rfl

theorem rdfTtl : Statement (.rdfTtl) := by
  rw [Statement, encode, splitWord_joinWord]; rfl

theorem rdfProto : Statement (.rdfProto) := by
  rw [Statement, encode, splitWord_joinWord]; rfl

theorem rdfSrc : Statement (.rdfSrc) := by
  rw [Statement, encode, splitWord_joinWord]; rfl

theorem rdfDst : Statement (.rdfDst) := by
  rw [Statement, encode, splitWord_joinWord]; rfl

theorem rdstatus : Statement (.rdstatus) := by
  rw [Statement, encode, splitWord_joinWord]; rfl

theorem rdcsum : Statement (.rdcsum) := by
  rw [Statement, encode, splitWord_joinWord]; rfl

theorem rdbuflen : Statement (.rdbuflen) := by
  rw [Statement, encode, splitWord_joinWord]; rfl

theorem ldb (i : BufIndex) : Statement (.ldb i) := by
  rw [Statement, encode, splitWord_joinWord]; rfl

theorem stb (i : BufIndex) (v : Octet) : Statement (.stb i v) := by
  rw [Statement, encode, splitWord_joinWord]; rfl

theorem ldw (i : BufIndex) : Statement (.ldw i) := by
  rw [Statement, encode, splitWord_joinWord]; rfl

theorem stw (i : BufIndex) (v : Word32) : Statement (.stw i v) := by
  rw [Statement, encode, splitWord_joinWord]; rfl

end Sys2Proof.Laws.DirBit
end

