-- ==== Sys2Proof/Laws/State.lean ====
section
/-! SUPPORT. The small lemmas of State: one per field per update. -/

namespace Sys2Proof.Machine

/-! ### respond -/

@[simp] theorem State.respond_fields (s : State) (ok : Bool) (d : Word32) :
    (s.respond ok d).fields = s.fields := rfl

@[simp] theorem State.respond_buf (s : State) (ok : Bool) (d : Word32) :
    (s.respond ok d).buf = s.buf := rfl

@[simp] theorem State.respond_csum (s : State) (ok : Bool) (d : Word32) :
    (s.respond ok d).csum = s.csum := rfl

@[simp] theorem State.respond_err (s : State) (ok : Bool) (d : Word32) :
    (s.respond ok d).err = s.err := rfl

@[simp] theorem State.respond_bufLen (s : State) (ok : Bool) (d : Word32) :
    (s.respond ok d).bufLen = s.bufLen := rfl

@[simp] theorem State.respond_script (s : State) (ok : Bool) (d : Word32) :
    (s.respond ok d).script = s.script := rfl

@[simp] theorem State.respond_responses (s : State) (ok : Bool) (d : Word32) :
    (s.respond ok d).responses = s.responses ++ [⟨ok, d⟩] := rfl

@[simp] theorem State.respond_resets (s : State) (ok : Bool) (d : Word32) :
    (s.respond ok d).resets = s.resets := rfl

/-! ### raise -/

@[simp] theorem State.raise_fields (s : State) (c : FaultCode) :
    (s.raise c).fields = s.fields := rfl

@[simp] theorem State.raise_buf (s : State) (c : FaultCode) :
    (s.raise c).buf = s.buf := rfl

@[simp] theorem State.raise_csum (s : State) (c : FaultCode) :
    (s.raise c).csum = s.csum := rfl

@[simp] theorem State.raise_err (s : State) (c : FaultCode) :
    (s.raise c).err = latchErr s.err c := rfl

@[simp] theorem State.raise_bufLen (s : State) (c : FaultCode) :
    (s.raise c).bufLen = s.bufLen := rfl

@[simp] theorem State.raise_script (s : State) (c : FaultCode) :
    (s.raise c).script = s.script := rfl

@[simp] theorem State.raise_responses (s : State) (c : FaultCode) :
    (s.raise c).responses = s.responses ++ [⟨false, 0⟩] := rfl

@[simp] theorem State.raise_resets (s : State) (c : FaultCode) :
    (s.raise c).resets = s.resets := rfl

/-! ### refuseWrite -/

@[simp] theorem State.refuseWrite_fields (s : State) :
    (s.refuseWrite).fields = s.fields := rfl

@[simp] theorem State.refuseWrite_buf (s : State) :
    (s.refuseWrite).buf = s.buf := rfl

@[simp] theorem State.refuseWrite_csum (s : State) :
    (s.refuseWrite).csum = s.csum := rfl

@[simp] theorem State.refuseWrite_err (s : State) :
    (s.refuseWrite).err = s.err := rfl

@[simp] theorem State.refuseWrite_bufLen (s : State) :
    (s.refuseWrite).bufLen = s.bufLen := rfl

@[simp] theorem State.refuseWrite_script (s : State) :
    (s.refuseWrite).script = s.script := rfl

@[simp] theorem State.refuseWrite_responses (s : State) :
    (s.refuseWrite).responses = s.responses ++ [⟨false, 0⟩] := rfl

@[simp] theorem State.refuseWrite_resets (s : State) :
    (s.refuseWrite).resets = s.resets := rfl

/-! ### resetEvent -/

@[simp] theorem State.resetEvent_fields (s : State) :
    (s.resetEvent).fields = Fields.drawn (s.resets + 1) := rfl

@[simp] theorem State.resetEvent_buf (s : State) :
    (s.resetEvent).buf = Buffer.drawn s.bufLen.val (s.resets + 1) := rfl

@[simp] theorem State.resetEvent_csum (s : State) :
    (s.resetEvent).csum = Config.drawCsum (s.resets + 1) := rfl

@[simp] theorem State.resetEvent_err (s : State) :
    (s.resetEvent).err = 0 := rfl

@[simp] theorem State.resetEvent_bufLen (s : State) :
    (s.resetEvent).bufLen = s.bufLen := rfl

@[simp] theorem State.resetEvent_script (s : State) :
    (s.resetEvent).script = s.script := rfl

@[simp] theorem State.resetEvent_responses (s : State) :
    (s.resetEvent).responses = [] := rfl

@[simp] theorem State.resetEvent_resets (s : State) :
    (s.resetEvent).resets = s.resets + 1 := rfl

/-! ### packed -/

@[simp] theorem State.packed_fields (s : State) :
    (s.packed).fields = s.fields := rfl

@[simp] theorem State.packed_buf (s : State) :
    (s.packed).buf = s.buf.writeAll (headerImage s.fields) := rfl

@[simp] theorem State.packed_csum (s : State) :
    (s.packed).csum = s.csum := rfl

@[simp] theorem State.packed_err (s : State) :
    (s.packed).err = s.err := rfl

@[simp] theorem State.packed_bufLen (s : State) :
    (s.packed).bufLen = s.bufLen := rfl

@[simp] theorem State.packed_script (s : State) :
    (s.packed).script = s.script := rfl

@[simp] theorem State.packed_responses (s : State) :
    (s.packed).responses = s.responses := rfl

@[simp] theorem State.packed_resets (s : State) :
    (s.packed).resets = s.resets := rfl

/-! ### sealed -/

@[simp] theorem State.sealed_fields (s : State) (h : BitVec 4) :
    (s.sealed h).fields = s.fields := rfl

@[simp] theorem State.sealed_buf (s : State) (h : BitVec 4) :
    (s.sealed h).buf = s.buf.write16 10 (s.checksum h) := rfl

@[simp] theorem State.sealed_csum (s : State) (h : BitVec 4) :
    (s.sealed h).csum = s.checksum h := rfl

@[simp] theorem State.sealed_err (s : State) (h : BitVec 4) :
    (s.sealed h).err = s.err := rfl

@[simp] theorem State.sealed_bufLen (s : State) (h : BitVec 4) :
    (s.sealed h).bufLen = s.bufLen := rfl

@[simp] theorem State.sealed_script (s : State) (h : BitVec 4) :
    (s.sealed h).script = s.script := rfl

@[simp] theorem State.sealed_responses (s : State) (h : BitVec 4) :
    (s.sealed h).responses = s.responses := rfl

@[simp] theorem State.sealed_resets (s : State) (h : BitVec 4) :
    (s.sealed h).resets = s.resets := rfl

/-! ### The field register file -/

/-- A register written with a value that fits reads back as that value (R171, R180). -/
theorem Fields.read_write_self (r : Fields) (f : Field) (v : Word32) (h : v.toNat < 2 ^ fieldWidth f) :
    (r.write f v).read f = v := by
  cases f <;> simp only [Fields.write, Fields.read, fieldWidth] at h ⊢ <;>
    apply BitVec.eq_of_toNat_eq <;> simp <;> omega

/-- A write to one register leaves the seven others alone (R21, V-HA-4). -/
theorem Fields.read_write_of_ne (r : Fields) {f g : Field} (v : Word32) (h : g ≠ f) :
    (r.write f v).read g = r.read g := by
  cases f <;> cases g <;> first | rfl | exact absurd rfl h

/-- Two register files that read alike are the same. -/
theorem Fields.ext_read {r q : Fields} (h : ∀ f, r.read f = q.read f) : r = q := by
  have z : ∀ {w : Nat} (a b : BitVec w), w ≤ 32 → a.zeroExtend 32 = b.zeroExtend 32 → a = b := by
    intro w a b hw hab
    have := congrArg BitVec.toNat hab
    simp only [BitVec.toNat_setWidth] at this
    have la : a.toNat < 2 ^ 32 := Nat.lt_of_lt_of_le a.isLt (Nat.pow_le_pow_right (by omega) hw)
    have lb : b.toNat < 2 ^ 32 := Nat.lt_of_lt_of_le b.isLt (Nat.pow_le_pow_right (by omega) hw)
    rw [Nat.mod_eq_of_lt la, Nat.mod_eq_of_lt lb] at this
    exact BitVec.eq_of_toNat_eq this
  cases r; cases q
  simp only [Fields.mk.injEq]
  exact ⟨z _ _ (by omega) (h .ver), z _ _ (by omega) (h .ihl), z _ _ (by omega) (h .tlen),
    z _ _ (by omega) (h .id), z _ _ (by omega) (h .ttl), z _ _ (by omega) (h .proto), h .src, h .dst⟩

/-- The code latched by a fault is never 0 (R210). -/
theorem latchErr_ne_zero (e : BitVec 3) (c : FaultCode) : latchErr e c ≠ 0 := by
  unfold latchErr
  split
  · cases c <;> decide
  · assumption

/-- An already latched code stays (R218). -/
theorem latchErr_of_ne_zero {e : BitVec 3} (h : e ≠ 0) (c : FaultCode) : latchErr e c = e := if_neg h

/-- A fault in an unfaulted block latches its own code (R216). -/
@[simp] theorem latchErr_zero (c : FaultCode) : latchErr 0 c = c.code := rfl

/-- No fault latches a code above 5 (R210). -/
theorem latchErr_le {e : BitVec 3} (h : e.toNat ≤ 5) (c : FaultCode) : (latchErr e c).toNat ≤ 5 := by
  unfold latchErr
  split
  · cases c <;> decide
  · exact h

end Sys2Proof.Machine
end

