-- ==== Sys2Proof/Laws/Step.lean ====
section
/-! SUPPORT. What each shared operation, each operation of the block and a step can do: said once, to be cited
instead of unfolded. -/

namespace Sys2Proof.Machine

/-! ### The frame of a transaction (R170) -/

/-- Everything a read operation can do: it faults on its check, or it answers with its value. -/
theorem State.performRead_cases (s : State) (check : Option FaultCode) (value : Word32) :
    (∃ c, check = some c ∧ s.performRead check value = s.raise c) ∨
    (check = none ∧ s.performRead check value = s.respond true value) := by
  cases check with
  | none => exact .inr ⟨rfl, rfl⟩
  | some c => exact .inl ⟨c, rfl, rfl⟩

/-- Everything a write operation can do: it is refused in a faulted block; it faults on its check in an unfaulted one;
or its whole effect happens and it answers. -/
theorem State.performWrite_cases (s : State) (check : Option FaultCode) (effect : State) (result : Word32) :
    (s.err ≠ 0 ∧ s.performWrite check effect result = s.refuseWrite) ∨
    (s.err = 0 ∧ ∃ c, check = some c ∧ s.performWrite check effect result = s.raise c) ∨
    (s.err = 0 ∧ check = none ∧ s.performWrite check effect result = effect.respond true result) := by
  by_cases h : s.err = 0
  · cases check with
    | none => exact .inr (.inr ⟨h, rfl, by simp [State.performWrite, h]⟩)
    | some c => exact .inr (.inl ⟨h, c, rfl, by simp [State.performWrite, h]⟩)
  · exact .inl ⟨h, if_pos h⟩

@[simp] theorem State.performRead_none (s : State) (value : Word32) :
    s.performRead none value = s.respond true value := rfl

@[simp] theorem State.performRead_some (s : State) (c : FaultCode) (value : Word32) :
    s.performRead (some c) value = s.raise c := rfl

theorem State.performWrite_faulted {s : State} (h : s.err ≠ 0) (check : Option FaultCode) (effect : State)
    (result : Word32) : s.performWrite check effect result = s.refuseWrite := if_pos h

theorem State.performWrite_some {s : State} (h : s.err = 0) (c : FaultCode) (effect : State) (result : Word32) :
    s.performWrite (some c) effect result = s.raise c := by simp [State.performWrite, h]

theorem State.performWrite_none {s : State} (h : s.err = 0) (effect : State) (result : Word32) :
    s.performWrite none effect result = effect.respond true result := by simp [State.performWrite, h]

/-- A transaction that decodes to a fault either finds a faulted block on a write and is refused, or takes the
fault. -/
theorem State.decodeFault_cases (s : State) (dir : Dir) (c : DecodeFault) :
    (dir = .write ∧ s.err ≠ 0 ∧ s.decodeFault dir c = s.refuseWrite) ∨
    ((dir = .read ∨ s.err = 0) ∧ s.decodeFault dir c = s.raise (FaultCode.ofDecode c)) := by
  cases dir with
  | read => exact .inr ⟨.inl rfl, rfl⟩
  | write =>
    by_cases h : s.err = 0
    · exact .inr ⟨.inr h, State.performWrite_some h _ s 0⟩
    · exact .inl ⟨rfl, h, State.performWrite_faulted h (some (FaultCode.ofDecode c)) s 0⟩

/-! ### The checks (R221) -/

theorem checkField_eq_none {f : Field} {v : Word32} : checkField f v = none ↔ v.toNat < 2 ^ fieldWidth f := by
  unfold checkField; split <;> simp [*]

theorem State.checkOctet_eq_none {s : State} {i : BufIndex} : s.checkOctet i = none ↔ i.toNat < s.bufLen.val := by
  unfold State.checkOctet; split <;> simp_all

theorem State.checkWord_eq_none {s : State} {i : BufIndex} :
    s.checkWord i = none ↔ aligned4 i = true ∧ i.toNat + 4 ≤ s.bufLen.val := by
  unfold State.checkWord; split <;> simp [*]

theorem State.checkPack_eq_none {s : State} : s.checkPack = none ↔ 20 ≤ s.bufLen.val := by
  unfold State.checkPack Config.hdrMin; split <;> simp <;> omega

theorem State.checkCksum_eq_none {s : State} {h : BitVec 4} :
    s.checkCksum h = none ↔ 5 ≤ h.toNat ∧ 4 * h.toNat ≤ s.bufLen.val := by
  unfold State.checkCksum
  split
  · simp; omega
  · split <;> simp <;> omega

/-! ### The operations -/

/-- The check an operation makes of its operands (R221, point 3). -/
def opCheck (s : State) : Instr → Option FaultCode
  | .pack => s.checkPack
  | .cksum h => s.checkCksum h
  | .wrfVer v => checkField .ver v
  | .wrfIhl v => checkField .ihl v
  | .wrfTlen v => checkField .tlen v
  | .wrfId v => checkField .id v
  | .wrfTtl v => checkField .ttl v
  | .wrfProto v => checkField .proto v
  | .wrfSrc v => checkField .src v
  | .wrfDst v => checkField .dst v
  | .rdfVer => none
  | .rdfIhl => none
  | .rdfTlen => none
  | .rdfId => none
  | .rdfTtl => none
  | .rdfProto => none
  | .rdfSrc => none
  | .rdfDst => none
  | .rdstatus => none
  | .rdcsum => none
  | .rdbuflen => none
  | .ldb i => s.checkOctet i
  | .stb i _ => s.checkOctet i
  | .ldw i => s.checkWord i
  | .stw i _ => s.checkWord i

/-- Everything an operation can do, whichever it is. It always answers a next state. It is refused (a write in a
faulted block), or it takes the fault of its check, or it reads and answers, or it writes the registers or the
buffer (keeping the buffer's octets) and answers. -/
theorem exec_cases (i : Instr) (s : State) : ∃ t, exec i s = .next t ∧
    ((i.isRead = false ∧ s.err ≠ 0 ∧ t = s.refuseWrite) ∨
     ((i.isRead = true ∨ s.err = 0) ∧ ∃ c, opCheck s i = some c ∧ t = s.raise c) ∨
     (i.isRead = true ∧ opCheck s i = none ∧ ∃ v, t = s.respond true v) ∨
     (i.isRead = false ∧ s.err = 0 ∧ opCheck s i = none ∧ ∃ r w c v,
        t = State.respond { s with fields := r, buf := s.buf.writeAll w, csum := c } true v)) := by
  have self : s.buf = s.buf.writeAll [] := by simp [Buffer.writeAll, Buffer.octet?]
  cases i <;> refine ⟨_, rfl, ?_⟩ <;>
    simp only [Instr.isRead, opCheck, State.readField, State.writeField, State.performRead_none,
      Bool.true_eq_false, Bool.false_eq_true, false_and, true_and, false_or, or_false, true_or, reduceCtorEq,
      exists_false, and_false]
  case pack =>
    rcases s.performWrite_cases s.checkPack s.packed 0 with ⟨h, e⟩ | ⟨h, c, hc, e⟩ | ⟨h, hc, e⟩
    · exact .inl ⟨h, e⟩
    · exact .inr (.inl ⟨h, c, hc, e⟩)
    · exact .inr (.inr ⟨h, hc, _, _, _, _, e⟩)
  case cksum x =>
    rcases s.performWrite_cases (s.checkCksum x) (s.sealed x) ((s.checksum x).zeroExtend 32) with
      ⟨h, e⟩ | ⟨h, c, hc, e⟩ | ⟨h, hc, e⟩
    · exact .inl ⟨h, e⟩
    · exact .inr (.inl ⟨h, c, hc, e⟩)
    · exact .inr (.inr ⟨h, hc, _, _, _, _, e⟩)
  case stb i v =>
    rcases s.performWrite_cases (s.checkOctet i) { s with buf := s.buf.write8 i.toNat v } 0 with
      ⟨h, e⟩ | ⟨h, c, hc, e⟩ | ⟨h, hc, e⟩
    · exact .inl ⟨h, e⟩
    · exact .inr (.inl ⟨h, c, hc, e⟩)
    · exact .inr (.inr ⟨h, hc, _, _, _, _, e⟩)
  case stw i v =>
    rcases s.performWrite_cases (s.checkWord i) { s with buf := s.buf.write32 i.toNat v } 0 with
      ⟨h, e⟩ | ⟨h, c, hc, e⟩ | ⟨h, hc, e⟩
    · exact .inl ⟨h, e⟩
    · exact .inr (.inl ⟨h, c, hc, e⟩)
    · exact .inr (.inr ⟨h, hc, _, _, _, _, e⟩)
  case ldb i =>
    rcases s.performRead_cases (s.checkOctet i) ((s.buf.read8 i.toNat).zeroExtend 32) with ⟨c, hc, e⟩ | ⟨hc, e⟩
    · exact .inl ⟨c, hc, e⟩
    · exact .inr ⟨hc, _, e⟩
  case ldw i =>
    rcases s.performRead_cases (s.checkWord i) (s.buf.read32 i.toNat) with ⟨c, hc, e⟩ | ⟨hc, e⟩
    · exact .inl ⟨c, hc, e⟩
    · exact .inr ⟨hc, _, e⟩
  all_goals first
    | exact ⟨_, rfl⟩
    | (rename_i v
       rcases s.performWrite_cases (checkField _ v) { s with fields := s.fields.write _ v } 0 with
         ⟨h, e⟩ | ⟨h, c, hc, e⟩ | ⟨h, hc, e⟩
       · exact .inl ⟨h, e⟩
       · exact .inr (.inl ⟨h, c, hc, e⟩)
       · exact .inr (.inr ⟨h, hc, s.fields.write _ v, [], s.csum, 0, by rw [← self]; exact e⟩))

/-! ### The step -/

/-- Everything a step can do: nothing when the host has no event left; a reset; an operation; a decode fault. -/
theorem step_cases (s : State) :
    (s.script = [] ∧ step s = .next s) ∨
    (∃ rest, s.script = .reset :: rest ∧ step s = .next (State.resetEvent { s with script := rest })) ∨
    (∃ T rest i, s.script = .transaction T :: rest ∧ decode T = .op i ∧
      step s = exec i { s with script := rest }) ∨
    (∃ T rest c, s.script = .transaction T :: rest ∧ decode T = .fault c ∧
      step s = .next (State.decodeFault { s with script := rest } (splitWord T).dir c)) := by
  unfold step State.nextEvent
  cases hs : s.script with
  | nil => exact .inl ⟨rfl, by simp⟩
  | cons e rest =>
    cases e with
    | reset => exact .inr (.inl ⟨rest, rfl, by simp⟩)
    | transaction T =>
      cases hd : decode T with
      | op i => exact .inr (.inr (.inl ⟨T, rest, i, rfl, hd, by simp [hd]⟩))
      | fault c => exact .inr (.inr (.inr ⟨T, rest, c, rfl, hd, by simp [hd]⟩))

end Sys2Proof.Machine
end

