-- ==== Sys2Proof/Tests/Slice0.lean ====
section
/-! SUPPORT. Tests: ill-formed terms, words written out from the spec's encodings, and single steps. Every expected
value is the spec's (95_test_vectors.md unless said otherwise). -/

namespace Sys2Proof.Tests

open Sys2Proof.Machine

/-! ### WellFormed -/

theorem test_ldw_misaligned_ill_formed : Instr.wf (.ldw 2) = false := by decide

theorem test_stw_misaligned_ill_formed : Instr.wf (.stw 21 0) = false := by decide

theorem test_ldw_aligned_well_formed : Instr.wf (.ldw 16) = true := by decide

/-! ### Decoding: words written out bit by bit, `dir ‖ size ‖ off (17) ‖ data (32)` (R87) -/

/-- `PACK` (R88: `OP` = 1, `H` = 0). -/
theorem test_decode_pack :
    decode 0b1_1_00000000000000000_00000000000000000000000000000001 = .op .pack := by decide

/-- `CKSUM 5` (R88: `OP` = 2, `H` = 5). -/
theorem test_decode_cksum :
    decode 0b1_1_00000000000000000_00000000000000000000000001010010 = .op (.cksum 5) := by decide

/-- `WRF.VER 4` at 0x00020 (R172). -/
theorem test_decode_wrfVer :
    decode 0b1_1_00000000000100000_00000000000000000000000000000100 = .op (.wrfVer 4) := by decide

/-- `WRF.IHL 5` at 0x00024 (R173). -/
theorem test_decode_wrfIhl :
    decode 0b1_1_00000000000100100_00000000000000000000000000000101 = .op (.wrfIhl 5) := by decide

/-- `WRF.TLEN 0x05DC` at 0x00028 (R174). -/
theorem test_decode_wrfTlen :
    decode 0b1_1_00000000000101000_00000000000000000000010111011100 = .op (.wrfTlen 0x05DC) := by decide

/-- `WRF.ID 0xABCD` at 0x0002C (R175). -/
theorem test_decode_wrfId :
    decode 0b1_1_00000000000101100_00000000000000001010101111001101 = .op (.wrfId 0xABCD) := by decide

/-- `WRF.TTL 64` at 0x00030 (R176). -/
theorem test_decode_wrfTtl :
    decode 0b1_1_00000000000110000_00000000000000000000000001000000 = .op (.wrfTtl 64) := by decide

/-- `WRF.PROTO 0xFE` at 0x00034 (R177). -/
theorem test_decode_wrfProto :
    decode 0b1_1_00000000000110100_00000000000000000000000011111110 = .op (.wrfProto 0xFE) := by decide

/-- `WRF.SRC 127.0.0.1` at 0x00038 (R178). -/
theorem test_decode_wrfSrc :
    decode 0b1_1_00000000000111000_01111111000000000000000000000001 = .op (.wrfSrc 0x7F000001) := by decide

/-- `WRF.DST 192.0.2.1` at 0x0003C (R179). -/
theorem test_decode_wrfDst :
    decode 0b1_1_00000000000111100_11000000000000000000001000000001 = .op (.wrfDst 0xC0000201) := by decide

/-- `RDF.VER` at 0x00020; the data of a read is ignored (0x55, section 6). -/
theorem test_decode_rdfVer :
    decode 0b0_1_00000000000100000_00000000000000000000000001010101 = .op .rdfVer := by decide

theorem test_decode_rdfIhl :
    decode 0b0_1_00000000000100100_00000000000000000000000000000000 = .op .rdfIhl := by decide

theorem test_decode_rdfTlen :
    decode 0b0_1_00000000000101000_00000000000000000000000000000000 = .op .rdfTlen := by decide

theorem test_decode_rdfId :
    decode 0b0_1_00000000000101100_00000000000000000000000000000000 = .op .rdfId := by decide

theorem test_decode_rdfTtl :
    decode 0b0_1_00000000000110000_00000000000000000000000000000000 = .op .rdfTtl := by decide

theorem test_decode_rdfProto :
    decode 0b0_1_00000000000110100_00000000000000000000000000000000 = .op .rdfProto := by decide

theorem test_decode_rdfSrc :
    decode 0b0_1_00000000000111000_00000000000000000000000000000000 = .op .rdfSrc := by decide

theorem test_decode_rdfDst :
    decode 0b0_1_00000000000111100_00000000000000000000000000000000 = .op .rdfDst := by decide

theorem test_decode_rdstatus :
    decode 0b0_1_00000000000000100_00000000000000000000000000000000 = .op .rdstatus := by decide

theorem test_decode_rdcsum :
    decode 0b0_1_00000000000001000_00000000000000000000000000000000 = .op .rdcsum := by decide

theorem test_decode_rdbuflen :
    decode 0b0_1_00000000000001100_00000000000000000000000000000000 = .op .rdbuflen := by decide

/-- `LDB 65535`, the top of the window. -/
theorem test_decode_ldb :
    decode 0b0_0_11111111111111111_00000000000000000000000000000000 = .op (.ldb 65535) := by decide

/-- `STB 3, 0xFF` with `data` = 0x1FF: `data[31:8]` is ignored. -/
theorem test_decode_stb :
    decode 0b1_0_10000000000000011_00000000000000000000000111111111 = .op (.stb 3 0xFF) := by decide

theorem test_decode_ldw :
    decode 0b0_1_10000000000010000_00000000000000000000000000000000 = .op (.ldw 16) := by decide

theorem test_decode_stw :
    decode 0b1_1_10000000000010100_11011110101011011011111011101111 = .op (.stw 20 0xDEADBEEF) := by decide

/-- The command words that are none (section 6). -/
theorem test_decode_illegal_commands :
    [0x6000000000000, 0x6000000000003, 0x600000000000F, 0x6000000000011, 0x6000000000102, 0x6000080000001].map
      (fun T => decode T) = List.replicate 6 (.fault .illegalCommand) := by decide

/-- The accesses the map does not allow (section 6). -/
theorem test_decode_access_faults :
    [0x2000000000000, 0x4000000000001, 0x60002FFFFFFFF, 0x4000100000000, 0x6000400000000, 0x6000800001234,
      0x6000C00000000, 0x2001000000000, 0x6001C00000000, 0x0002000000000, 0x2002200000000, 0x2004000000000,
      0x6FFFC00000000, 0x3000200000000, 0x7001500000000].map (fun T => decode T) =
      List.replicate 15 (.fault .accessFault) := by decide

/-- The encoder gives the words of the script table (R93, 95_test_vectors.md programs P1 to P4). -/
theorem test_encode :
    [Instr.pack, .cksum 5, .wrfVer 4, .wrfDst 0xC0000201, .rdbuflen, .ldb 18, .stb 8 63, .ldw 20,
      .stw 20 0xDEADBEEF].map encode =
    [0x6000000000001, 0x6000000000052, 0x6002000000004, 0x6003CC0000201, 0x2000C00000000, 0x1001200000000,
      0x500080000003F, 0x3001400000000, 0x70014DEADBEEF] := by decide

/-- The host's reading of a table word. -/
theorem test_decodeTableWord : decodeTableWord 56 0x6000000000052 = some (.cksum 5) := by decide

/-! ### Single steps -/

/-- A buffer that holds the octets of a list. -/
def bufOf (octets : List Nat) : Buffer :=
  (List.range octets.length).map fun i => (i, BitVec.ofNat 8 (octets.getD i 0))

/-- The registers of V-HB-1. -/
def vectorFields : Fields := ⟨4, 5, 0x05DC, 0xABCD, 0x40, 0xFE, 0x7F000001, 0xC0000201⟩

/-- An unfaulted block whose buffer holds the octets of a list. -/
def block (octets : List Nat) : State where
  fields := vectorFields
  buf := bufOf octets
  csum := 0x8754
  err := 0
  bufLen := Fin.ofNat 65536 octets.length
  script := []
  responses := []
  resets := 0

/-- The same block, faulted. -/
def faultedBlock (octets : List Nat) : State := { block octets with err := 5 }

/-- A canonical buffer has no octet at or above its length. -/
theorem no_octet {n a : Nat} {b : Buffer} (w : Memory.wf n b = true) (h : n ≤ a) : b.octet? a = none := by
  rw [← Option.not_isSome_iff_eq_none, Memory.wf.isSome_iff w]
  omega

/-- What a test looks at in an outcome. -/
def look {α : Type} (o : Host.Outcome State Fault Refusal) (f : State → α) : Option α :=
  match o with
  | .next t => some (f t)
  | .fault _ => none
  | .refused _ => none

/-- The responses given. -/
def answers (t : State) : List (Bool × Nat) := t.responses.map fun r => (r.ok, r.rdata.toNat)

/-- The octets of the buffer. -/
def octetsOf (t : State) : List Nat := t.buf.map fun c => c.2.toNat

/-- The header of V-HB-1. -/
def header1 : List Nat :=
  [0x45, 0x00, 0x05, 0xDC, 0xAB, 0xCD, 0x00, 0x00, 0x40, 0xFE, 0x00, 0x00, 0x7F, 0x00, 0x00, 0x01, 0xC0, 0x00, 0x02, 0x01]

/-- V-HB-16: octets 1, 6, 7, 10, 11 become zero, octets 20 to 23 stay. -/
theorem test_pack :
    look (exec .pack (block (List.replicate 24 0xEE))) (fun t => (octetsOf t, answers t)) =
      some (header1 ++ [0xEE, 0xEE, 0xEE, 0xEE], [(true, 0)]) := by decide

/-- V-HB-18: nothing written. -/
theorem test_pack_too_small :
    look (exec .pack (block (List.replicate 19 0xEE))) (fun t => (octetsOf t, t.err, answers t)) =
      some (List.replicate 19 0xEE, 1, [(false, 0)]) := by decide

/-- V-CE-4, with octets 10 and 11 stale (V-CE-12b). -/
theorem test_cksum :
    look (exec (.cksum 5) (block (header1.set 10 0xDE |>.set 11 0xAD)))
      (fun t => (octetsOf t, t.csum, answers t)) =
      some (header1.set 10 0x87 |>.set 11 0x54, 0x8754, [(true, 0x8754)]) := by decide

/-- V-CE-16: the span follows `h`. -/
theorem test_cksum_span :
    look (exec (.cksum 15) (block (List.range 60))) (fun t => (t.csum, answers t)) =
      some (0xA083, [(true, 0xA083)]) := by decide

/-- V-CE-19: `h < 5` is checked first. -/
theorem test_cksum_bad_length :
    look (exec (.cksum 3) (block (List.replicate 8 0))) (fun t => t.err) = some 2 := by decide

/-- V-CE-23 and V-CE-24: 23 octets are too few for `h` = 6, 24 are enough. -/
theorem test_cksum_boundary :
    look (exec (.cksum 6) (block (List.replicate 23 0))) (fun t => t.err) = some 1 ∧
    look (exec (.cksum 6) (block (List.replicate 24 0))) (fun t => t.err) = some 0 := by decide

/-- V-CE-27: refused, nothing changes. -/
theorem test_cksum_refused :
    look (exec (.cksum 5) (faultedBlock header1)) (fun t => (octetsOf t, t.csum, t.err, answers t)) =
      some (header1, 0x8754, 5, [(false, 0)]) := by decide

/-- The largest legal value and the smallest illegal one (section 5). -/
theorem test_wrfVer :
    look (exec (.wrfVer 0xF) (block [])) (fun t => (t.fields.ver, t.err)) = some (0xF, 0) ∧
    look (exec (.wrfVer 0x10) (block [])) (fun t => (t.fields.ver, t.err)) = some (4, 5) := by decide

theorem test_wrfIhl :
    look (exec (.wrfIhl 0xF) (block [])) (fun t => (t.fields.ihl, t.err)) = some (0xF, 0) ∧
    look (exec (.wrfIhl 0x10) (block [])) (fun t => (t.fields.ihl, t.err)) = some (5, 5) := by decide

theorem test_wrfTlen :
    look (exec (.wrfTlen 0xFFFF) (block [])) (fun t => (t.fields.tlen, t.err)) = some (0xFFFF, 0) ∧
    look (exec (.wrfTlen 0x10000) (block [])) (fun t => (t.fields.tlen, t.err)) = some (0x05DC, 5) := by decide

theorem test_wrfId :
    look (exec (.wrfId 0xFFFF) (block [])) (fun t => (t.fields.id, t.err)) = some (0xFFFF, 0) ∧
    look (exec (.wrfId 0x10000) (block [])) (fun t => (t.fields.id, t.err)) = some (0xABCD, 5) := by decide

/-- With V-HA-1: a high bit is out of range like any other. -/
theorem test_wrfTtl :
    look (exec (.wrfTtl 0xFF) (block [])) (fun t => (t.fields.ttl, t.err)) = some (0xFF, 0) ∧
    look (exec (.wrfTtl 0x80000040) (block [])) (fun t => (t.fields.ttl, t.err)) = some (0x40, 5) := by decide

theorem test_wrfProto :
    look (exec (.wrfProto 0xFF) (block [])) (fun t => (t.fields.proto, t.err)) = some (0xFF, 0) ∧
    look (exec (.wrfProto 0x100) (block [])) (fun t => (t.fields.proto, t.err)) = some (0xFE, 5) := by decide

theorem test_wrfSrc :
    look (exec (.wrfSrc 0xFFFFFFFF) (block [])) (fun t => (t.fields.src, t.err)) = some (0xFFFFFFFF, 0) := by decide

theorem test_wrfDst :
    look (exec (.wrfDst 0xFFFFFFFF) (block [])) (fun t => (t.fields.dst, t.err)) = some (0xFFFFFFFF, 0) := by decide

/-- The eight reads of V-HB-1's registers, in a faulted block too (V-FL-6). -/
theorem test_rdf :
    [Instr.rdfVer, .rdfIhl, .rdfTlen, .rdfId, .rdfTtl, .rdfProto, .rdfSrc, .rdfDst].map
      (fun i => look (exec i (faultedBlock [])) answers) =
    [4, 5, 0x05DC, 0xABCD, 0x40, 0xFE, 0x7F000001, 0xC0000201].map (fun v => some [(true, v)]) := by decide

theorem test_rdstatus : look (exec .rdstatus (faultedBlock [])) answers = some [(true, 5)] := by decide

/-- V-HA-10. -/
theorem test_rdcsum : look (exec .rdcsum (block [])) answers = some [(true, 0x8754)] := by decide

/-- V-HA-7 and V-HA-8. -/
theorem test_rdbuflen :
    look (exec .rdbuflen (block (List.replicate 24 0))) answers = some [(true, 24)] ∧
    look (exec .rdbuflen (block [])) answers = some [(true, 0)] := by decide

/-- V-HA-16 and V-HA-17: the last octet, and the one after it. -/
theorem test_ldb :
    look (exec (.ldb 23) (block (List.range 24))) answers = some [(true, 23)] ∧
    look (exec (.ldb 24) (block (List.range 24))) (fun t => (t.err, answers t)) = some (4, [(false, 0)]) := by decide

/-- Only the octet named changes. -/
theorem test_stb :
    look (exec (.stb 2 0xAA) (block [0x11, 0x22, 0x33, 0x44])) octetsOf = some [0x11, 0x22, 0xAA, 0x44] ∧
    look (exec (.stb 4 0xAA) (block [0x11, 0x22, 0x33, 0x44])) (fun t => (octetsOf t, t.err)) =
      some ([0x11, 0x22, 0x33, 0x44], 4) := by decide

/-- V-HA-14's lanes, and V-HA-19. -/
theorem test_ldw :
    look (exec (.ldw 4) (block [0, 0, 0, 0, 0xAA, 0xBB, 0xCC, 0xDD])) answers = some [(true, 0xAABBCCDD)] ∧
    look (exec (.ldw 8) (block [0, 0, 0, 0, 0xAA, 0xBB, 0xCC, 0xDD])) (fun t => t.err) = some 4 := by decide

/-- V-HA-13's lanes, and V-HA-22: no partial write. -/
theorem test_stw :
    look (exec (.stw 0 0x01020304) (block [9, 9, 9, 9, 9])) octetsOf = some [1, 2, 3, 4, 9] ∧
    look (exec (.stw 20 0xDEADBEEF) (block (List.range 22))) (fun t => (octetsOf t, t.err)) =
      some (List.range 22, 4) := by decide

/-- V-FL-4 and V-FL-5: an illegal command and a faulting read in a faulted block keep the first code. -/
theorem test_first_fault_wins :
    look (step { faultedBlock (List.range 24) with script := [.transaction 0x6000000000000] })
      (fun t => (t.err, answers t)) = some (5, [(false, 0)]) ∧
    look (step { faultedBlock (List.range 24) with script := [.transaction 0x3001800000000] })
      (fun t => (t.err, answers t)) = some (5, [(false, 0)]) := by decide

/-- V-FL-3: a misaligned write to `CMD` is an access fault; the data is never looked at. -/
theorem test_decode_fault_priority :
    look (step { block [] with script := [.transaction 0x60002FFFFFFFF] }) (fun t => t.err) = some 4 := by decide

/-- A reset event clears the fault (V-FL-8). -/
theorem test_reset_event :
    look (step { faultedBlock [] with script := [.reset] }) (fun t => (t.err, t.script, t.resets)) =
      some (0, [], 1) := by decide

/-- With nothing left to do the block holds its state. -/
theorem test_idle : look (step (faultedBlock [7])) (fun t => t == faultedBlock [7]) = some true := by decide

/-! ### Pure functions (section 2) -/

/-- V-FN-1 to V-FN-9. -/
theorem test_fold16 :
    [0x0, 0xFFFF, 0x10000, 0x1FFFE, 0x1FFFF, 0x278A9, 0x7FFFF, 0x1CFFE3, 0x1DFFE2].map fold16 =
    [0x0, 0xFFFF, 0x1, 0xFFFF, 0x1, 0x78AB, 0x7, 0xFFFF, 0xFFFF] := by decide

/-- V-FN-10 to V-FN-16. -/
theorem test_ocsum16 :
    [[], [0, 0], [0xFF, 0xFF], [1, 2, 3, 4], [1, 2, 3], [0xFF, 0xFF, 0, 1], [0xFF, 0xFF, 0xFF, 0xFF, 0, 2]].map ocsum16 =
    [0xFFFF, 0xFFFF, 0x0000, 0xFBF9, 0xFBFD, 0xFFFE, 0xFFFD] := by decide

/-- V-FN-17. -/
theorem test_eac :
    eac [0x4500, 0x05DC, 0xABCD, 0, 0x40FE, 0, 0x7F00, 0x0001, 0xC000, 0x0201] = 0x78AB := by decide

/-- V-HB-1 read back (R97). -/
theorem test_parseHeader : (bufOf header1).parseHeader = ⟨vectorFields, 0⟩ := by decide

/-- R95. -/
theorem test_dottedQuad : dottedQuad 127 0 0 1 = 0x7F000001 := by decide

/-- R94: `zero 20, 23` and `build 5`. -/
theorem test_pseudo :
    zero 20 23 = [.stb 20 0, .stb 21 0, .stb 22 0, .stb 23 0] ∧ scriptOps (scriptOf (build 5)) = some (build 5) := by
  decide

/-! ### Witnesses: for every statement with hypotheses, states and operands that meet all of them together -/

/-- An unfaulted block of `octets` with one transaction waiting. -/
def pending (octets : List Nat) (T : TransactionWord) : State := { block octets with script := [.transaction T] }

/-- 24 octets, the last four of them a tail. -/
def octets24 : List Nat := List.range 24

/-- The state a number of steps leads to. -/
def after (k : Nat) (s : State) : State :=
  match Host.Core.run core k s with
  | .next t => t
  | .fault _ => s
  | .refused _ => s

/-- For DecodeOfEncode: the alignment is the only condition. -/
theorem witness_DecodeOfEncode :
    Instr.wf (.cksum 15) = true ∧ Instr.wf (.ldw 65532) = true ∧ Instr.wf (.stw 0 0xFFFFFFFF) = true ∧
    Instr.wf (.stb 65535 0xFF) = true := by decide

/-- For EncodeOfDecode: a canonical word, and one with ignored bits set. -/
theorem witness_EncodeOfDecode :
    decode 0x60000000000F2 = .op (.cksum 15) ∧ decode 0x50003000001FF = .op (.stb 3 0xFF) := by decide

/-- For IgnoredBitsDoNotMatter: two words that differ, on a read and on an octet write. -/
theorem witness_IgnoredBitsDoNotMatter :
    canonicalWord 0x2002000000055 = canonicalWord 0x2002000000000 ∧
    canonicalWord 0x50003000001FF = canonicalWord 0x50003FFFFFFFF := by decide

/-- For StepRunsTheDecodedInstruction. -/
theorem witness_StepRunsTheDecodedInstruction :
    (pending octets24 0x6000000000001).script = .transaction 0x6000000000001 :: [] ∧
    decode 0x6000000000001 = .op .pack := by decide

/-- For StepTakesTheDecodeFault: both faults, on a read and on a write (with `test_first_fault_wins` for a faulted block). -/
theorem witness_StepTakesTheDecodeFault :
    decode 0x2000000000000 = .fault .accessFault ∧ decode 0x6000400000000 = .fault .accessFault ∧
    decode 0x6000000000000 = .fault .illegalCommand ∧
    (pending [] 0x2000000000000).script = .transaction 0x2000000000000 :: [] := by decide

/-- For IdleBlockHoldsItsState. -/
theorem witness_IdleBlockHoldsItsState : (block octets24).script = [] := by decide

/-- For ResetEventGivesTheResetState. -/
theorem witness_ResetEventGivesTheResetState :
    State.script { faultedBlock octets24 with script := [.reset] } = .reset :: [] := by decide

/-- For EveryTransactionIsAnsweredOnce and ReadsChangeNothing: a read. -/
theorem witness_ReadsChangeNothing :
    (pending octets24 0x1001700000000).script = .transaction 0x1001700000000 :: [] ∧
    (splitWord 0x1001700000000).dir = .read := by decide

/-- For EveryStepKeepsTheInvariant: an unfaulted block, and a faulted one with its failed response. -/
theorem witness_EveryStepKeepsTheInvariant :
    (pending octets24 0x6000000000001).Inv ∧ (∃ t, step (pending octets24 0x6000000000001) = .next t) ∧
    State.Inv { faultedBlock octets24 with responses := [⟨true, 7⟩, ⟨false, 0⟩] } :=
  ⟨by decide, ⟨_, rfl⟩, by decide⟩

/-- For NoStepResizesTheBuffer. -/
theorem witness_NoStepResizesTheBuffer :
    (pending octets24 0x6000000000001).script.head? ≠ some .reset := by decide

/-- For FaultedBlockIsFrozen: a write, `RDSTATUS`, and a read that is not `RDSTATUS`. -/
theorem witness_FaultedBlockIsFrozen :
    (faultedBlock octets24).err ≠ 0 ∧
    (splitWord 0x6000000000001).dir = .write ∧
    decode 0x2000400000000 = .op .rdstatus ∧
    (splitWord 0x1001700000000).dir = .read ∧ decode 0x1001700000000 ≠ .op .rdstatus ∧
    State.script { faultedBlock octets24 with script := [.transaction 0x6000000000001] } =
      .transaction 0x6000000000001 :: [] := by decide

/-- For OkTellsWhetherErrChanged: a response that is `ok`, with every earlier one `ok` in a state of the invariant. -/
theorem witness_OkTellsWhetherErrChanged_ok :
    (pending octets24 0x6000000000001).Inv ∧
    look (step (pending octets24 0x6000000000001)) (fun t => t.responses) = some [⟨true, 0⟩] := by decide

/-- For OkTellsWhetherErrChanged and FaultsArePrecise: a response that is not. -/
theorem witness_FaultsArePrecise :
    (pending (List.range 19) 0x6000000000001).script = .transaction 0x6000000000001 :: [] ∧
    look (step (pending (List.range 19) 0x6000000000001)) (fun t => t.responses) =
      some ((pending (List.range 19) 0x6000000000001).responses ++ [⟨false, 0⟩]) := by decide

/-- For OnlyTheNamedOperationsWrite: an operation that is none of the writers, and each kind of writer, with an octet
from 20 on. -/
theorem witness_OnlyTheNamedOperationsWrite :
    (∃ t, exec .rdcsum (block octets24) = .next t) ∧ (∃ t, exec .pack (block octets24) = .next t) ∧
    (∃ t, exec (.cksum 6) (block octets24) = .next t) ∧ (∃ t, exec (.wrfVer 4) (block octets24) = .next t) ∧
    (∃ t, exec (.stb 20 0) (block octets24) = .next t) ∧ (∃ t, exec (.stw 20 0) (block octets24) = .next t) :=
  ⟨⟨_, rfl⟩, ⟨_, rfl⟩, ⟨_, rfl⟩, ⟨_, rfl⟩, ⟨_, rfl⟩, ⟨_, rfl⟩⟩

/-- What a transaction latches in an unfaulted block of `n` octets. -/
def latched (n : Nat) (T : TransactionWord) : Option (BitVec 3) :=
  look (step (pending (List.range n) T)) fun t => t.err

/-- For AccessFaultCauses: a witness of each cause at a boundary, and next to each an access that is allowed. -/
theorem witness_AccessFaultCauses :
    (pending octets24 0x2001000000000).err = 0 ∧
    [0x2001000000000, 0x6001C00000000, 0x2004000000000, 0x6FFFC00000000,
      0x0002000000000, 0x4000000000001,
      0x2002200000000, 0x7001500000000,
      0x2000000000000,
      0x6000400000000, 0x6000800000000, 0x6000C00000000,
      0x1001800000000, 0x5001800000000,
      0x3001800000000, 0x7001800000000].map (latched 24) = List.replicate 16 (some 4) ∧
    [0x2002000000000, 0x6003C00000000, 0x2000C00000000, 0x6000000000001, 0x1001700000000, 0x5001700000000,
      0x3001400000000, 0x7001400000000].map (latched 24) = List.replicate 8 (some 0) := by decide

/-- For IllegalCommandCauses: the data next to the command words, and the command words. -/
theorem witness_IllegalCommandCauses :
    [0x6000000000000, 0x6000000000003, 0x6000000000011, 0x6000000000102, 0x6000080000001].map (latched 60) =
      List.replicate 5 (some 3) ∧
    [0x6000000000001, 0x6000000000052, 0x60000000000F2].map (latched 60) = List.replicate 3 (some 0) := by decide

/-- For FieldRangeCauses: the first value too large for each narrow register, and the last that fits. -/
theorem witness_FieldRangeCauses :
    [0x6002000000010, 0x6002400000010, 0x6002800010000, 0x6002C00010000, 0x6003000000100, 0x6003400000100].map
      (latched 0) = List.replicate 6 (some 5) ∧
    [0x600200000000F, 0x600240000000F, 0x600280000FFFF, 0x6002C0000FFFF, 0x60030000000FF, 0x60034000000FF,
      0x60038FFFFFFFF, 0x6003CFFFFFFFF].map (latched 0) = List.replicate 8 (some 0) := by decide

/-- For BufferTooSmallCauses: one octet too few, and just enough. -/
theorem witness_BufferTooSmallCauses :
    latched 19 0x6000000000001 = some 1 ∧ latched 20 0x6000000000001 = some 0 ∧
    latched 19 0x6000000000052 = some 1 ∧ latched 20 0x6000000000052 = some 0 ∧
    latched 59 0x60000000000F2 = some 1 ∧ latched 60 0x60000000000F2 = some 0 := by decide

/-- For BadHeaderLengthCauses: `h` = 0 and 4, in a buffer of no octets too. -/
theorem witness_BadHeaderLengthCauses :
    latched 0 0x6000000000002 = some 2 ∧ latched 60 0x6000000000002 = some 2 ∧
    latched 0 0x6000000000042 = some 2 ∧ latched 60 0x6000000000042 = some 2 := by decide

/-- For PackPlacesEveryField, PackRoundTrip and CKSUM's statements: the smallest buffer of a header, and one with a tail. -/
theorem witness_PackPlacesEveryField :
    (block (List.range 20)).err = 0 ∧
    Memory.wf (block (List.range 20)).bufLen.val (block (List.range 20)).buf = true ∧
    20 ≤ (block (List.range 20)).bufLen.val ∧
    (block octets24).err = 0 ∧ Memory.wf (block octets24).bufLen.val (block octets24).buf = true ∧
    20 ≤ (block octets24).bufLen.val := by decide

/-- For PackIntoSmallBufferWritesNothing. -/
theorem witness_PackIntoSmallBufferWritesNothing :
    (block (List.range 19)).err = 0 ∧ (block (List.range 19)).bufLen.val < 20 := by decide

/-- For PackFieldsAreIndependent: two blocks whose octets 0 to 19 differ and whose registers differ in `F.IHL` only; octet 2
does not belong to `F.IHL`, and the second block has the tail the first `PACK` left. -/
theorem witness_PackFieldsAreIndependent :
    ∃ s₁ s₂ t₁ t₂ : State, s₁.err = 0 ∧ s₂.err = 0 ∧
      Memory.wf s₁.bufLen.val s₁.buf = true ∧ Memory.wf s₂.bufLen.val s₂.buf = true ∧
      20 ≤ s₁.bufLen.val ∧ 20 ≤ s₂.bufLen.val ∧ exec .pack s₁ = .next t₁ ∧ exec .pack s₂ = .next t₂ ∧
      (∀ f, 2 ∈ fieldOctets f → s₂.fields.read f = s₁.fields.read f) ∧
      (∀ g, g ≠ Field.ihl → s₂.fields.read g = s₁.fields.read g) ∧
      (∀ a, 20 ≤ a → s₂.buf.octet? a = t₁.buf.octet? a) ∧ 2 ∉ fieldOctets .ihl ∧
      s₂.fields.read .ihl ≠ s₁.fields.read .ihl ∧ s₂.buf ≠ s₁.buf :=
  ⟨block (List.range 20), { block (List.replicate 20 0xEE) with fields := { vectorFields with ihl := 15 } }, _, _,
    by decide, by decide, by decide, by decide, by decide, by decide, rfl, rfl, by intro f; cases f <;> decide,
    by intro g; cases g <;> decide,
    fun _ h => by rw [no_octet (n := 20) (by decide) h, no_octet (n := 20) (by decide) h],
    by decide, by decide, by decide⟩

/-- For PackDoesNotReadTheBuffer: two blocks whose octets 0 to 19 differ. -/
theorem witness_PackDoesNotReadTheBuffer :
    ∃ s₁ s₂ t₁ t₂ : State, s₁.err = 0 ∧ s₂.err = 0 ∧ 20 ≤ s₁.bufLen.val ∧ s₂.bufLen = s₁.bufLen ∧
      Memory.wf s₁.bufLen.val s₁.buf = true ∧ Memory.wf s₂.bufLen.val s₂.buf = true ∧
      s₂.fields = s₁.fields ∧ (∀ a, 20 ≤ a → s₂.buf.octet? a = s₁.buf.octet? a) ∧ s₂.buf ≠ s₁.buf ∧
      exec .pack s₁ = .next t₁ ∧ exec .pack s₂ = .next t₂ :=
  ⟨block (List.range 20), block (List.replicate 20 0xEE), _, _, by decide, by decide, by decide, rfl, by decide,
    by decide, rfl,
    fun _ h => by rw [no_octet (n := 20) (by decide) h, no_octet (n := 20) (by decide) h],
    by decide, rfl, rfl⟩

/-- For CksumStoresTheChecksum, ChecksumVerifies and SpecialChecksumsStandAsComputed: the smallest `h` and the largest, each
with the smallest buffer. -/
theorem witness_CksumStoresTheChecksum :
    (block (List.range 20)).err = 0 ∧
    Memory.wf (block (List.range 20)).bufLen.val (block (List.range 20)).buf = true ∧
    5 ≤ (5 : BitVec 4).toNat ∧ 4 * (5 : BitVec 4).toNat ≤ (block (List.range 20)).bufLen.val ∧
    (block (List.range 60)).err = 0 ∧
    Memory.wf (block (List.range 60)).bufLen.val (block (List.range 60)).buf = true ∧
    5 ≤ (15 : BitVec 4).toNat ∧ 4 * (15 : BitVec 4).toNat ≤ (block (List.range 60)).bufLen.val := by decide

/-- For CksumFaults: each clause at its boundary. -/
theorem witness_CksumFaults :
    (block (List.range 19)).err = 0 ∧ (4 : BitVec 4).toNat < 5 ∧
    5 ≤ (5 : BitVec 4).toNat ∧ (block (List.range 19)).bufLen.val < 4 * (5 : BitVec 4).toNat := by decide

/-- For SpecialChecksumsStandAsComputed: both special values occur (V-CE-9, and a sum of 0xFFFF worked out by hand). -/
theorem witness_SpecialChecksumsStandAsComputed :
    look (exec (.cksum 5) (block (List.replicate 20 0))) (fun t => t.csum) = some 0xFFFF ∧
    look (exec (.cksum 5) (block ([0xFF, 0xFF] ++ List.replicate 18 0))) (fun t => t.csum) = some 0 := by decide

/-- For CksumIsIdempotent: the second `CKSUM` on the buffer the first one left. -/
theorem witness_CksumIsIdempotent :
    ∃ s t u v : State, s.err = 0 ∧ u.err = 0 ∧ Memory.wf s.bufLen.val s.buf = true ∧ 5 ≤ (5 : BitVec 4).toNat ∧
      4 * (5 : BitVec 4).toNat ≤ s.bufLen.val ∧ u.bufLen = s.bufLen ∧ exec (.cksum 5) s = .next t ∧
      (∀ a, a < 4 * (5 : BitVec 4).toNat → a ≠ 10 → a ≠ 11 → u.buf.octet? a = t.buf.octet? a) ∧
      exec (.cksum 5) u = .next v ∧ u.buf = t.buf :=
  ⟨block header1, State.respond (State.sealed (block header1) 5) true _, State.sealed (block header1) 5, _, by decide,
    by decide, by decide, by decide, by decide, rfl, rfl, fun _ _ _ _ => rfl, rfl, rfl⟩

/-- For CksumDependsOnTheSpanOnly: two blocks that differ in a register, in `CSUM`, in octet 10 and in the tail. -/
theorem witness_CksumDependsOnTheSpanOnly :
    ∃ s₁ s₂ t₁ t₂ : State, s₁.err = 0 ∧ s₂.err = 0 ∧ 5 ≤ (5 : BitVec 4).toNat ∧
      4 * (5 : BitVec 4).toNat ≤ s₁.bufLen.val ∧ 4 * (5 : BitVec 4).toNat ≤ s₂.bufLen.val ∧
      (∀ a, a < 4 * (5 : BitVec 4).toNat → a ≠ 10 → a ≠ 11 → s₂.buf.octet? a = s₁.buf.octet? a) ∧
      s₂.buf ≠ s₁.buf ∧ s₂.csum ≠ s₁.csum ∧ s₂.fields ≠ s₁.fields ∧
      exec (.cksum 5) s₁ = .next t₁ ∧ exec (.cksum 5) s₂ = .next t₂ :=
  ⟨block (header1 ++ [1]), { block (header1.set 10 0xDE ++ [2]) with csum := 1, fields := { vectorFields with ihl := 6 } },
    _, _, by decide, by decide, by decide, by decide, by decide,
    by
      intro a h
      have h : a < 20 := h
      revert a; decide,
    by decide, by decide, by decide, rfl, rfl⟩

/-- For Words16Partition: the last word16 of an odd list. -/
theorem witness_Words16Partition : 1 < (words16 [1, 2, 3]).length := by decide

/-- For Fold16Laws: sums at and just above the last that needs no pass. -/
theorem witness_Fold16Laws : (0 : Nat) < 0xFFFF ∧ (0 : Nat) < 0x10000 ∧ fold16 0xFFFF = 0xFFFF ∧ fold16 0x10000 = 1 := by
  decide

/-- For SumBoundAndTwoPasses: the smallest `h`, with a sum that needs a pass. -/
theorem witness_SumBoundAndTwoPasses :
    5 ≤ (5 : BitVec 4).toNat ∧ 0xFFFF < spanSum (bufOf header1) (2 * (5 : BitVec 4).toNat) := by decide

/-- For EndAroundCarryEqualsWideSum: the bound of the operands. -/
theorem witness_EndAroundCarryEqualsWideSum : (0xFFFF : Nat) ≤ 0xFFFF ∧ eacAdd 0xFFFF 0xFFFF = 0xFFFF := by decide

/-- For ChecksumSensitivity: a word16 raised by 1, two word16s exchanged, and a sum that is not 0. -/
theorem witness_ChecksumSensitivity :
    (0xFFFF : Word16).toNat = (0xFFFE : Word16).toNat + 1 ∧ ([1, 2] : List Word16).Perm [2, 1] ∧
    sum16 ([1] ++ 0 :: []) ≠ 0 := by decide

/-- For WrfStoresOrFaults: the last value that fits and the first that does not, in an unfaulted block; a faulted block. -/
theorem witness_WrfStoresOrFaults :
    (block []).err = 0 ∧ (15 : Word32).toNat ≤ 15 ∧ 15 < (16 : Word32).toNat ∧ (255 : Word32).toNat ≤ 255 ∧
    255 < (256 : Word32).toNat ∧ (0xFFFF : Word32).toNat ≤ 0xFFFF ∧ 0xFFFF < (0x10000 : Word32).toNat ∧
    (faultedBlock []).err ≠ 0 := by decide

/-- For RdfReturnsWhatWrfStored: the largest value of a register of each width, and another register read before. -/
theorem witness_RdfReturnsWhatWrfStored :
    (block []).err = 0 ∧ (15 : Word32).toNat < 2 ^ fieldWidth .ver ∧ (255 : Word32).toNat < 2 ^ fieldWidth .ttl ∧
    (0xFFFF : Word32).toNat < 2 ^ fieldWidth .tlen ∧ (0xFFFFFFFF : Word32).toNat < 2 ^ fieldWidth .dst ∧
    Field.ihl ≠ Field.ver ∧ look (exec (.rdf .ihl) (block [])) (fun t => t.responses) = some [⟨true, 5⟩] := by decide

/-- For LdbReturnsTheOctet: the last octet and the first index outside. -/
theorem witness_LdbReturnsTheOctet :
    (23 : BufIndex).toNat < (block octets24).bufLen.val ∧ (block octets24).buf.octet? (23 : BufIndex).toNat = some 23 ∧
    (block octets24).bufLen.val ≤ (24 : BufIndex).toNat := by decide

/-- For LdwReturnsFourOctets: the last word32, one that runs out of the buffer by one octet, and a misaligned index. -/
theorem witness_LdwReturnsFourOctets :
    (20 : BufIndex).toNat % 4 = 0 ∧ (20 : BufIndex).toNat + 4 ≤ (block octets24).bufLen.val ∧
    (block octets24).buf.octet? 20 = some 20 ∧ (block octets24).buf.octet? 21 = some 21 ∧
    (block octets24).buf.octet? 22 = some 22 ∧ (block octets24).buf.octet? 23 = some 23 ∧
    (block (List.range 23)).bufLen.val < (20 : BufIndex).toNat + 4 ∧ (18 : BufIndex).toNat % 4 ≠ 0 := by decide

/-- For StbStoresOneOctet: each clause. -/
theorem witness_StbStoresOneOctet :
    (block octets24).err = 0 ∧ Memory.wf (block octets24).bufLen.val (block octets24).buf = true ∧
    (23 : BufIndex).toNat < (block octets24).bufLen.val ∧ (block octets24).bufLen.val ≤ (24 : BufIndex).toNat ∧
    (faultedBlock octets24).err ≠ 0 := by decide

/-- For StwStoresFourOctets and WidthsSeeEachOther: each clause. -/
theorem witness_StwStoresFourOctets :
    (block octets24).err = 0 ∧ Memory.wf (block octets24).bufLen.val (block octets24).buf = true ∧
    (20 : BufIndex).toNat % 4 = 0 ∧ (20 : BufIndex).toNat + 4 ≤ (block octets24).bufLen.val ∧
    (block (List.range 23)).bufLen.val < (20 : BufIndex).toNat + 4 ∧ (22 : BufIndex).toNat % 4 ≠ 0 ∧
    (faultedBlock octets24).err ≠ 0 := by decide

/-- For BuildMakesASealedHeader: `F.IHL` = 5 in a block of 24 octets. -/
theorem witness_BuildMakesASealedHeader :
    (block octets24).err = 0 ∧ Memory.wf (block octets24).bufLen.val (block octets24).buf = true ∧
    5 ≤ (block octets24).fields.ihl.toNat ∧ 4 * (block octets24).fields.ihl.toNat ≤ (block octets24).bufLen.val := by
  decide

/-- For PackIsValidExactlyForVersionFourLengthFive: V-HB-1's registers in a block that meets the hypotheses; the
source's vector header is valid, and it is not with another version, length or checksum field. -/
theorem witness_PackIsValidExactlyForVersionFourLengthFive :
    (block octets24).err = 0 ∧ Memory.wf (block octets24).bufLen.val (block octets24).buf = true ∧
    20 ≤ (block octets24).bufLen.val ∧ (block octets24).fields.ver = 4 ∧ (block octets24).fields.ihl = 5 ∧
    (bufOf header1).SyntacticallyValid ∧ ¬ (bufOf (header1.set 0 0x46)).SyntacticallyValid ∧
    ¬ (bufOf (header1.set 0 0x55)).SyntacticallyValid ∧ ¬ (bufOf (header1.set 11 1)).SyntacticallyValid := by decide

/-- A block of 24 octets with a total length of 24. -/
def validBlock : State := { block octets24 with fields := { vectorFields with tlen := 24 } }

/-- For ValidValuesMakeADatagram: all premises together, at the boundary `F.TLEN` = `BUF_LEN`. -/
theorem witness_ValidValuesMakeADatagram :
    validBlock.err = 0 ∧ Memory.wf validBlock.bufLen.val validBlock.buf = true ∧ validBlock.Fits ∧
    validBlock.ValidValues := by decide

/-- The operations of a datagram of 24 octets: a header and one word32 of payload. -/
def datagramOps : List Instr :=
  setup 4 5 24 1 64 17 0x7F000001 0xC0000201 ++ [.pack, .stw 20 0xDEADBEEF, .cksum 5]

/-- Two blocks right after reset whose draws differ everywhere, given that script. -/
def freshBlock (x : Nat) : State :=
  { block (List.replicate 24 x) with
    fields := ⟨BitVec.ofNat 4 x, BitVec.ofNat 4 x, BitVec.ofNat 16 x, BitVec.ofNat 16 x, BitVec.ofNat 8 x,
      BitVec.ofNat 8 x, BitVec.ofNat 32 x, BitVec.ofNat 32 x⟩
    csum := BitVec.ofNat 16 x
    script := scriptOf datagramOps }

/-- For FinishedDatagramHoldsNoDraw: all its premises together. -/
theorem witness_FinishedDatagramHoldsNoDraw :
    ∃ (s₁ s₂ t₁ t₂ : State) (ops : List Instr),
      s₁.FreshReset ∧ s₂.FreshReset ∧ s₂.bufLen = s₁.bufLen ∧ s₂.script = s₁.script ∧
      scriptOps s₁.script = some ops ∧
      Host.Core.run core s₁.script.length s₁ = .next t₁ ∧ Host.Core.run core s₁.script.length s₂ = .next t₂ ∧
      t₁.NoFault ∧ FieldsWritten ops ∧ TailWritten ops t₁.fields.tlen.toNat ∧ Sealed ops t₁.fields.ihl ∧
      4 * t₁.fields.ihl.toNat ≤ t₁.fields.tlen.toNat ∧
      s₂.buf ≠ s₁.buf ∧ s₂.fields ≠ s₁.fields ∧ s₂.csum ≠ s₁.csum := by
  have tlen : (after 11 (freshBlock 0xEE)).fields.tlen.toNat = 24 := by decide
  have ihl : (after 11 (freshBlock 0xEE)).fields.ihl = 5 := by decide
  refine ⟨freshBlock 0xEE, freshBlock 0x11, after 11 (freshBlock 0xEE), after 11 (freshBlock 0x11), datagramOps,
    by decide, by decide, rfl, rfl, by decide, rfl, rfl, by decide, ?_, ?_, ?_, ?_, by decide, by decide, by decide⟩
  · refine ⟨setup 4 5 24 1 64 17 0x7F000001 0xC0000201, [.stw 20 0xDEADBEEF, .cksum 5], rfl, by decide, ?_⟩
    intro f
    cases f
    · exact ⟨4, by decide⟩
    · exact ⟨5, by decide⟩
    · exact ⟨24, by decide⟩
    · exact ⟨1, by decide⟩
    · exact ⟨64, by decide⟩
    · exact ⟨17, by decide⟩
    · exact ⟨0x7F000001, by decide⟩
    · exact ⟨0xC0000201, by decide⟩
  · rw [tlen]
    intro n h1 h2
    refine ⟨.stw 20 0xDEADBEEF, by decide, ?_⟩
    show (decide (20 ≤ n) && decide (n < 20 + 4)) = true
    simp [h1, h2]
  · rw [ihl]
    exact ⟨setup 4 5 24 1 64 17 0x7F000001 0xC0000201 ++ [.pack, .stw 20 0xDEADBEEF], [], rfl, by decide,
      by simp, by simp⟩
  · rw [tlen, ihl]
    decide

end Sys2Proof.Tests
end

section
/-! PROOFS. The state: its invariant, who writes what, and the field registers read back. -/

namespace Sys2Proof.Machine

/-! ### What keeps the invariant (R44, R98, R230) -/

/-- A reset state has the invariant, whatever its parameter, its draws and its script (R41). -/
theorem State.inv_afterReset (len : Fin 65536) (n : Nat) (script : List HostEvent) :
    (State.afterReset len n script).Inv := by
  refine ⟨Memory.wf_drawn len.val n, Nat.zero_le 5, ?_, ?_⟩ <;> simp [State.afterReset]

/-- A response that is `ok` keeps the invariant: it says nothing of a fault, and `STATUS.ERR` stands (R230). -/
theorem State.Inv.respond_true {s : State} (h : s.Inv) (v : Word32) : (s.respond true v).Inv := by
  obtain ⟨wf, le, ok, nodata⟩ := h
  refine ⟨wf, le, ?_, ?_⟩
  · simpa [or_imp, forall_and] using ok
  · simpa [or_imp, forall_and] using nodata

/-- A response that is not `ok` and carries no data gives the invariant when a fault code is latched (R98, R230). -/
theorem State.inv_respond_false {s : State} (wf : Memory.wf s.bufLen.val s.buf = true) (le : s.err.toNat ≤ 5)
    (faulted : s.err ≠ 0) (nodata : ∀ r ∈ s.responses, r.ok = false → r.rdata = 0) : (s.respond false 0).Inv := by
  refine ⟨wf, le, ⟨fun e => absurd e faulted, fun allOk => ?_⟩, ?_⟩
  · exact absurd (allOk ⟨false, 0⟩ (by simp)) (by decide)
  · simpa [or_imp, forall_and] using nodata

/-- A refused write keeps the invariant (R219). -/
theorem State.Inv.refuseWrite {s : State} (h : s.Inv) (faulted : s.err ≠ 0) : s.refuseWrite.Inv := by
  obtain ⟨wf, le, -, nodata⟩ := h
  exact State.inv_respond_false wf le faulted nodata

/-- Taking a fault keeps the invariant: the code it leaves is not 0 (R216). -/
theorem State.Inv.raise {s : State} (h : s.Inv) (c : FaultCode) : (s.raise c).Inv := by
  obtain ⟨wf, le, -, nodata⟩ := h
  exact State.inv_respond_false (s := { s with err := latchErr s.err c }) wf (latchErr_le le c)
    (latchErr_ne_zero s.err c) nodata

/-- Writing registers, `CSUM` and octets that exist keeps the invariant (R44 (c)). -/
theorem State.Inv.write {s : State} (h : s.Inv) (r : Fields) (w : List (Nat × Octet)) (c : Word16) :
    State.Inv { s with fields := r, buf := s.buf.writeAll w, csum := c } := by
  obtain ⟨wf, rest⟩ := h
  exact ⟨(Memory.wf_writeAll _ _ w).trans wf, rest⟩

/-- Every operation keeps the invariant. -/
theorem State.Inv.exec {s t : State} {i : Instr} (h : s.Inv) (e : exec i s = .next t) : t.Inv := by
  obtain ⟨t', e', cases⟩ := exec_cases i s
  obtain rfl : t' = t := by simpa [e'] using e
  rcases cases with ⟨-, faulted, rfl⟩ | ⟨-, c, -, rfl⟩ | ⟨-, -, v, rfl⟩ | ⟨-, -, -, r, w, c, v, rfl⟩
  · exact h.refuseWrite faulted
  · exact h.raise c
  · exact h.respond_true v
  · exact (h.write r w c).respond_true v

/-- A transaction that decodes to a fault keeps the invariant. -/
theorem State.Inv.decodeFault {s : State} (h : s.Inv) (dir : Dir) (c : DecodeFault) : (s.decodeFault dir c).Inv := by
  rcases s.decodeFault_cases dir c with ⟨-, faulted, e⟩ | ⟨-, e⟩ <;> rw [e]
  · exact h.refuseWrite faulted
  · exact h.raise _

/-- Settles O10: each thing a step can do keeps the invariant, which does not speak of the script. -/
theorem everyStepKeepsTheInvariant : Obligations.EveryStepKeepsTheInvariant := by
  intro s t h e
  rcases step_cases s with ⟨-, e'⟩ | ⟨rest, -, e'⟩ | ⟨T, rest, i, -, -, e'⟩ | ⟨T, rest, c, -, -, e'⟩ <;>
    rw [e'] at e
  · cases e
    exact h
  · cases e
    exact State.inv_afterReset _ _ _
  · exact State.Inv.exec (s := { s with script := rest }) h e
  · cases e
    exact State.Inv.decodeFault (s := { s with script := rest }) h _ c

/-- Settles O11. -/
theorem resetStateHasTheInvariant : Obligations.ResetStateHasTheInvariant :=
  State.inv_afterReset Config.bufLen 0 []

/-! ### The extent of the buffer (R34, R44 (c)) -/

/-- No operation changes `BUF_LEN` or which octets `BUF` has. -/
theorem exec_keeps_extent (i : Instr) (s : State) : Completes (exec i s) fun t =>
    t.bufLen = s.bufLen ∧ t.buf.map Prod.fst = s.buf.map Prod.fst := by
  obtain ⟨t, e, cases⟩ := exec_cases i s
  refine ⟨t, e, ?_⟩
  rcases cases with ⟨-, -, rfl⟩ | ⟨-, c, -, rfl⟩ | ⟨-, -, v, rfl⟩ | ⟨-, -, -, r, w, c, v, rfl⟩
  · exact ⟨rfl, rfl⟩
  · exact ⟨rfl, rfl⟩
  · exact ⟨rfl, rfl⟩
  · exact ⟨rfl, s.buf.keys_writeAll w⟩

/-- A transaction that decodes to a fault leaves the data of the block alone (R217, R219). -/
theorem State.decodeFault_sameData (s : State) (dir : Dir) (c : DecodeFault) : SameData s (s.decodeFault dir c) := by
  rcases s.decodeFault_cases dir c with ⟨-, -, e⟩ | ⟨-, e⟩ <;> rw [e] <;> exact ⟨rfl, rfl, rfl, rfl⟩

/-- Settles O12: an octet write names octets that exist, and only a reset replaces the list. -/
theorem noStepResizesTheBuffer : Obligations.NoStepResizesTheBuffer := by
  intro s
  rcases step_cases s with ⟨-, e⟩ | ⟨rest, hs, e⟩ | ⟨T, rest, i, -, -, e⟩ | ⟨T, rest, c, -, -, e⟩
  · exact ⟨s, e, rfl, fun _ => rfl⟩
  · exact ⟨_, e, rfl, fun noReset => absurd (congrArg List.head? hs) noReset⟩
  · obtain ⟨t, e', len, keys⟩ := exec_keeps_extent i { s with script := rest }
    exact ⟨t, e.trans e', len, fun _ => keys⟩
  · obtain ⟨-, buf, -, len⟩ := State.decodeFault_sameData { s with script := rest } (splitWord T).dir c
    exact ⟨_, e, len, fun _ => congrArg _ buf⟩

/-! ### The field registers (R171, R180) -/

/-- `WRF` is one operation over the eight registers (R171). -/
theorem exec_wrf (f : Field) (v : Word32) (s : State) : exec (.wrf f v) s = .next (s.writeField f v) := by
  cases f <;> rfl

/-- `RDF` is one operation over the eight registers, and it never faults (R180). -/
theorem exec_rdf (f : Field) (s : State) : exec (.rdf f) s = .next (s.respond true (s.fields.read f)) := by
  cases f <;> rfl

/-- In an unfaulted block a value that fits is stored (R171). -/
theorem State.writeField_of_fits {s : State} {f : Field} {v : Word32} (ok : s.err = 0)
    (fits : v.toNat < 2 ^ fieldWidth f) :
    s.writeField f v = State.respond { s with fields := s.fields.write f v } true 0 := by
  rw [State.writeField, checkField_eq_none.mpr fits, State.performWrite_none ok]

/-- Settles O40: the register written reads back, and the seven others read as before. -/
theorem rdfReturnsWhatWrfStored : Obligations.RdfReturnsWhatWrfStored := by
  intro s f v ok fits
  refine ⟨_, (exec_wrf f v s).trans (congrArg _ (State.writeField_of_fits ok fits)),
    rfl, rfl, rfl, rfl, ⟨rfl, rfl, rfl⟩, ?_, fun g hg x hx => ?_⟩
  · rw [exec_rdf, State.respond_fields, Fields.read_write_self s.fields f v fits]
    rfl
  · obtain rfl : s.fields.read g = x := by simpa [exec_rdf, State.respond] using hx
    rw [exec_rdf, State.respond_fields, Fields.read_write_of_ne s.fields v hg]
    rfl

/-! ### Who writes what (R20) -/

/-- An operation is one of the five that write, or a read operation (R170). -/
theorem write_or_read (i : Instr) :
    i = .pack ∨ (∃ h, i = .cksum h) ∨ (∃ f v, i = .wrf f v) ∨ (∃ a v, i = .stb a v) ∨ (∃ a v, i = .stw a v) ∨
    i.isRead = true := by
  cases i with
  | pack => exact .inl rfl
  | cksum h => exact .inr (.inl ⟨h, rfl⟩)
  | wrfVer v => exact .inr (.inr (.inl ⟨.ver, v, rfl⟩))
  | wrfIhl v => exact .inr (.inr (.inl ⟨.ihl, v, rfl⟩))
  | wrfTlen v => exact .inr (.inr (.inl ⟨.tlen, v, rfl⟩))
  | wrfId v => exact .inr (.inr (.inl ⟨.id, v, rfl⟩))
  | wrfTtl v => exact .inr (.inr (.inl ⟨.ttl, v, rfl⟩))
  | wrfProto v => exact .inr (.inr (.inl ⟨.proto, v, rfl⟩))
  | wrfSrc v => exact .inr (.inr (.inl ⟨.src, v, rfl⟩))
  | wrfDst v => exact .inr (.inr (.inl ⟨.dst, v, rfl⟩))
  | stb a v => exact .inr (.inr (.inr (.inl ⟨a, v, rfl⟩)))
  | stw a v => exact .inr (.inr (.inr (.inr (.inl ⟨a, v, rfl⟩))))
  | _ => exact .inr (.inr (.inr (.inr (.inr rfl))))

/-- A read operation leaves the data of the block alone (R170). -/
theorem exec_read_sameData {i : Instr} {s t : State} (hr : i.isRead = true) (e : exec i s = .next t) :
    SameData s t := by
  obtain ⟨t', e', cases⟩ := exec_cases i s
  obtain rfl : t' = t := by simpa [e'] using e
  rcases cases with ⟨-, -, rfl⟩ | ⟨-, c, -, rfl⟩ | ⟨-, -, v, rfl⟩ | ⟨hw, -⟩
  · exact ⟨rfl, rfl, rfl, rfl⟩
  · exact ⟨rfl, rfl, rfl, rfl⟩
  · exact ⟨rfl, rfl, rfl, rfl⟩
  · exact absurd (hr.symm.trans hw) (by decide)

/-- A write operation leaves the data of the block as it was or as its whole effect makes it (R217). -/
theorem State.performWrite_data (s : State) (check : Option FaultCode) (effect : State) (result : Word32) :
    SameData s (s.performWrite check effect result) ∨ SameData effect (s.performWrite check effect result) := by
  rcases s.performWrite_cases check effect result with ⟨-, e⟩ | ⟨-, c, -, e⟩ | ⟨-, -, e⟩ <;> rw [e]
  · exact .inl ⟨rfl, rfl, rfl, rfl⟩
  · exact .inl ⟨rfl, rfl, rfl, rfl⟩
  · exact .inr ⟨rfl, rfl, rfl, rfl⟩

/-- Everything an operation can do to the data of the block: nothing, or the effect of one of the five that write. -/
theorem exec_data_cases {i : Instr} {s t : State} (e : exec i s = .next t) :
    SameData s t ∨
    (i = .pack ∧ SameData s.packed t) ∨
    (∃ h, i = .cksum h ∧ SameData (s.sealed h) t) ∨
    (∃ f v, i = .wrf f v ∧ SameData { s with fields := s.fields.write f v } t) ∨
    (∃ a v, i = .stb a v ∧ SameData { s with buf := s.buf.write8 a.toNat v } t) ∨
    (∃ a v, i = .stw a v ∧ SameData { s with buf := s.buf.write32 a.toNat v } t) := by
  rcases write_or_read i with rfl | ⟨h, rfl⟩ | ⟨f, v, rfl⟩ | ⟨a, v, rfl⟩ | ⟨a, v, rfl⟩ | hr
  · cases e
    exact (s.performWrite_data _ _ _).imp_right fun d => .inl ⟨rfl, d⟩
  · cases e
    exact (s.performWrite_data _ _ _).imp_right fun d => .inr (.inl ⟨h, rfl, d⟩)
  · rw [exec_wrf] at e
    cases e
    exact (s.performWrite_data _ _ _).imp_right fun d => .inr (.inr (.inl ⟨f, v, rfl, d⟩))
  · cases e
    exact (s.performWrite_data _ _ _).imp_right fun d => .inr (.inr (.inr (.inl ⟨a, v, rfl, d⟩)))
  · cases e
    exact (s.performWrite_data _ _ _).imp_right fun d => .inr (.inr (.inr (.inr ⟨a, v, rfl, d⟩)))
  · exact .inl (exec_read_sameData hr e)

/-- Settles O17: of the five operations that write, each leaves alone what the table of R20 does not give it; `PACK`
stays below octet 20 and `CKSUM` at octets 10 and 11. -/
theorem onlyTheNamedOperationsWrite : Obligations.OnlyTheNamedOperationsWrite := by
  intro i s t e
  rcases exec_data_cases e with ⟨hf, hb, hc, -⟩ | ⟨rfl, hf, hb, hc, -⟩ | ⟨h, rfl, hf, hb, hc, -⟩ |
    ⟨f, v, rfl, hf, hb, hc, -⟩ | ⟨a, v, rfl, hf, hb, hc, -⟩ | ⟨a, v, rfl, hf, hb, hc, -⟩
  · exact ⟨fun _ => hf, fun _ => hc, fun _ _ _ _ => hb, fun _ _ _ _ => by rw [hb]⟩
  · refine ⟨fun _ => hf, fun _ => hc, fun notPack => absurd rfl notPack, fun _ _ a ha => ?_⟩
    rw [hb]
    exact s.buf.octet?_writeAll_of_none (octet?_headerImage_of_ge s.fields ha)
  · refine ⟨fun _ => hf, fun notCksum => absurd rfl (notCksum h), fun _ notCksum => absurd rfl (notCksum h),
      fun _ _ a ha => ?_⟩
    rw [hb]
    exact s.buf.octet?_write16_of_outside _ (.inr (by omega))
  · exact ⟨fun notWrf => absurd rfl (notWrf f v), fun _ => hc, fun _ _ _ _ => hb, fun _ _ _ _ => by rw [hb]⟩
  · exact ⟨fun _ => hf, fun _ => hc, fun _ _ notStb => absurd rfl (notStb a v), fun notStb => absurd rfl (notStb a v)⟩
  · exact ⟨fun _ => hf, fun _ => hc, fun _ _ _ notStw => absurd rfl (notStw a v),
      fun _ notStw => absurd rfl (notStw a v)⟩

end Sys2Proof.Machine
end

section
/-! PROOFS. Host memory accesses: what a read transaction leaves alone, and how octet and word32 accesses meet. -/

namespace Sys2Proof

/-! ### The direction of a transaction and of the operation it decodes to (R87, R170) -/

@[simp] theorem Instr.isRead_rdf (f : Field) : (Instr.rdf f).isRead = true := by cases f <;> rfl

@[simp] theorem Instr.isRead_wrf (f : Field) (v : Word32) : (Instr.wrf f v).isRead = false := by cases f <;> rfl

/-- A command is a write operation (R88). -/
theorem isRead_of_decodeCommand {d : Word32} {i : Instr} (h : decodeCommand d = .op i) : i.isRead = false := by
  unfold decodeCommand at h
  split at h
  · cases h
  · split at h
    · split at h <;> cases h
      rfl
    · split at h <;> cases h
      rfl

/-- A location that may only be read gives its operation to a read and none to a write. -/
theorem isRead_of_readOnly {d : Dir} {j i : Instr} (hj : j.isRead = true) (h : readOnly d j = .op i) :
    i.isRead = decide (d = .read) := by
  cases d with
  | read => cases h; exact hj
  | write => cases h

/-- In the register window the operation has the direction of the transaction. -/
theorem isRead_of_decodeRegister {t : Transaction} {i : Instr} (h : decodeRegister t = .op i) :
    i.isRead = decide (t.dir = .read) := by
  unfold decodeRegister at h
  split at h
  · cases hd : t.dir <;> rw [hd] at h
    · cases h
    · exact isRead_of_decodeCommand h
  split at h
  · exact isRead_of_readOnly rfl h
  split at h
  · exact isRead_of_readOnly rfl h
  split at h
  · exact isRead_of_readOnly rfl h
  split at h
  · cases hd : t.dir <;> rw [hd] at h <;> cases h
    · exact Instr.isRead_rdf _
    · exact Instr.isRead_wrf _ _
  · cases h

/-- In the buffer window the operation has the direction of the transaction. -/
theorem isRead_of_decodeBuffer {t : Transaction} {i : Instr} (h : decodeBuffer t = .op i) :
    i.isRead = decide (t.dir = .read) := by
  obtain ⟨d, z, off, data⟩ := t
  cases z <;> cases d
  · cases h; rfl
  · cases h; rfl
  · dsimp only [decodeBuffer] at h
    split at h <;> cases h
    rfl
  · dsimp only [decodeBuffer] at h
    split at h <;> cases h
    rfl

/-- A word decodes to a read operation exactly when its `dir` bit says read (R87, R170). -/
theorem isRead_of_decode {T : TransactionWord} {i : Instr} (h : decode T = .op i) :
    i.isRead = decide ((splitWord T).dir = .read) := by
  unfold decode decodeTransaction at h
  split at h
  · split at h
    · cases h
    · split at h
      · cases h
      · exact isRead_of_decodeRegister h
  · exact isRead_of_decodeBuffer h

end Sys2Proof

namespace Sys2Proof.Machine

/-! ### Read transactions (R59, R170) -/

/-- The step on a transaction: the operation it decodes to, or its decode fault (R170). -/
theorem step_transaction_cases {s : State} {T : TransactionWord} {rest : List HostEvent}
    (hs : s.script = .transaction T :: rest) :
    (∃ i, decode T = .op i ∧ step s = exec i { s with script := rest }) ∨
    (∃ c, decode T = .fault c ∧ step s = .next (State.decodeFault { s with script := rest } (splitWord T).dir c)) := by
  rcases step_cases s with ⟨hs', -⟩ | ⟨_, hs', -⟩ | ⟨T', rest', i, hs', hd, e⟩ | ⟨T', rest', c, hs', hd, e⟩ <;>
    rw [hs] at hs' <;> cases hs'
  · exact .inl ⟨i, hd, e⟩
  · exact .inr ⟨c, hd, e⟩

/-- Everything a read operation can do: take a fault, or answer with a value (R170). -/
theorem exec_read_cases {i : Instr} (hr : i.isRead = true) (s : State) :
    (∃ c, exec i s = .next (s.raise c)) ∨ ∃ v, exec i s = .next (s.respond true v) := by
  obtain ⟨t, e, cases⟩ := exec_cases i s
  rcases cases with ⟨hw, -⟩ | ⟨-, c, -, rfl⟩ | ⟨-, -, v, rfl⟩ | ⟨hw, -⟩
  · exact absurd (hr.symm.trans hw) (by decide)
  · exact .inl ⟨c, e⟩
  · exact .inr ⟨v, e⟩
  · exact absurd (hr.symm.trans hw) (by decide)

/-- Everything the step can do on a read transaction: take a fault, or answer with a value (R170). -/
theorem step_read_cases {s : State} {T : TransactionWord} {rest : List HostEvent}
    (hs : s.script = .transaction T :: rest) (hr : (splitWord T).dir = .read) :
    (∃ c, step s = .next (State.raise { s with script := rest } c)) ∨
    ∃ v, step s = .next (State.respond { s with script := rest } true v) := by
  rcases step_transaction_cases hs with ⟨i, hd, e⟩ | ⟨c, -, e⟩
  · rw [e]
    exact exec_read_cases (by simp [isRead_of_decode hd, hr]) _
  · rw [hr] at e
    exact .inl ⟨_, e⟩

/-- Settles O16: a read that answers changes nothing, and one that faults changes `STATUS.ERR` from 0 only. -/
theorem readsChangeNothing : Obligations.ReadsChangeNothing := by
  intro s T rest hs hr
  rcases step_read_cases hs hr with ⟨c, e⟩ | ⟨v, e⟩
  · refine ⟨_, e, ⟨rfl, rfl, rfl, rfl⟩, ?_⟩
    by_cases h : s.err = 0
    · exact .inr ⟨h, rfl⟩
    · exact .inl (latchErr_of_ne_zero h c)
  · exact ⟨_, e, ⟨rfl, rfl, rfl, rfl⟩, .inl rfl⟩

/-! ### Loads and stores that fit (R192 to R195) -/

/-- `LDB` of an octet that exists (R192). -/
theorem exec_ldb_of_lt {s : State} {i : BufIndex} (hi : i.toNat < s.bufLen.val) :
    exec (.ldb i) s = .next (s.respond true ((s.buf.read8 i.toNat).zeroExtend 32)) := by
  rw [exec, execLdb, State.checkOctet_eq_none.mpr hi, State.performRead_none]

/-- `STB` to an octet that exists, in an unfaulted block (R193). -/
theorem exec_stb_of_lt {s : State} {i : BufIndex} (v : Octet) (ok : s.err = 0) (hi : i.toNat < s.bufLen.val) :
    exec (.stb i v) s = .next (State.respond { s with buf := s.buf.write8 i.toNat v } true 0) := by
  rw [exec, execStb, State.checkOctet_eq_none.mpr hi, State.performWrite_none ok]

/-- A word32 access at a multiple of 4 that fits passes its check (R194, R195). -/
theorem State.checkWord_of_fits {s : State} {i : BufIndex} (ha : i.toNat % 4 = 0) (hi : i.toNat + 4 ≤ s.bufLen.val) :
    s.checkWord i = none :=
  State.checkWord_eq_none.mpr ⟨by simp [aligned4, ha], hi⟩

/-- `LDW` of four octets that exist (R194). -/
theorem exec_ldw_of_fits {s : State} {i : BufIndex} (ha : i.toNat % 4 = 0) (hi : i.toNat + 4 ≤ s.bufLen.val) :
    exec (.ldw i) s = .next (s.respond true (s.buf.read32 i.toNat)) := by
  rw [exec, execLdw, State.checkWord_of_fits ha hi, State.performRead_none]

/-- `STW` to four octets that exist, in an unfaulted block (R195). -/
theorem exec_stw_of_fits {s : State} {i : BufIndex} (v : Word32) (ok : s.err = 0) (ha : i.toNat % 4 = 0)
    (hi : i.toNat + 4 ≤ s.bufLen.val) :
    exec (.stw i v) s = .next (State.respond { s with buf := s.buf.write32 i.toNat v } true 0) := by
  rw [exec, execStw, State.checkWord_of_fits ha hi, State.performWrite_none ok]

/-! ### Octets and word32s of the buffer (R53, R55) -/

/-- The index `k` octets on, when that is below the buffer's end. -/
theorem toNat_bufIndex_add {i : BufIndex} {k n : Nat} (hn : n ≤ 65536) (h : i.toNat + k < n) :
    (i + BitVec.ofNat 16 k).toNat = i.toNat + k := by
  rw [BitVec.toNat_add, BitVec.toNat_ofNat]
  omega

/-- Octet `k` of a word32 written is octet `k` of its value, the most significant first (R53, R55). -/
theorem Buffer.read8_write32 {b : Buffer} {i k : Nat} (v : Word32) (hk : k < 4)
    (h : (b.octet? (i + k)).isSome = true) : (b.write32 i v).read8 (i + k) = v.extractLsb' (24 - 8 * k) 8 := by
  refine Buffer.read8_writeAll_of_some h ?_
  obtain rfl | rfl | rfl | rfl : k = 0 ∨ k = 1 ∨ k = 2 ∨ k = 3 := by omega
  all_goals simp [Buffer.octet?]

/-- A read after an octet write: the octet written, or what was there. -/
theorem Buffer.read8_write8 {b : Buffer} {i : Nat} (v : Octet) (h : (b.octet? i).isSome = true) (j : Nat) :
    (b.write8 i v).read8 j = if j = i then v else b.read8 j := by
  split
  · subst_vars
    exact Buffer.read8_write8_self v h
  · exact Buffer.read8_congr (b.octet?_write8_of_ne v ‹j ≠ i›)

/-- Four octets joined, the most significant first, as a number (R55). -/
theorem cat16_cat8_eq_ofNat (x₀ x₁ x₂ x₃ : Octet) : cat16 (cat8 x₀ x₁) (cat8 x₂ x₃) =
    BitVec.ofNat 32 (x₀.toNat * 2 ^ 24 + x₁.toNat * 2 ^ 16 + x₂.toNat * 2 ^ 8 + x₃.toNat) := by
  apply BitVec.eq_of_toNat_eq
  rw [toNat_cat16, toNat_cat8, toNat_cat8, BitVec.toNat_ofNat]
  omega

/-- An octet write neither makes nor removes an octet (R44 (c)). -/
@[simp] theorem Buffer.isSome_octet?_write8 (b : Buffer) (i : Nat) (v : Octet) (j : Nat) :
    ((b.write8 i v).octet? j).isSome = (b.octet? j).isSome := b.isSome_octet?_writeAll _ j

/-- Four octets written one by one read back as one word32, the most significant first (R67). -/
theorem Buffer.read32_write8_four {b : Buffer} {i : Nat} (x₀ x₁ x₂ x₃ : Octet)
    (h : ∀ k < 4, (b.octet? (i + k)).isSome = true) :
    ((((b.write8 i x₀).write8 (i + 1) x₁).write8 (i + 2) x₂).write8 (i + 3) x₃).read32 i =
      cat16 (cat8 x₀ x₁) (cat8 x₂ x₃) := by
  have h₀ := h 0 (by decide)
  have h₁ := h 1 (by decide)
  have h₂ := h 2 (by decide)
  have h₃ := h 3 (by decide)
  rw [Nat.add_zero] at h₀
  simp [Buffer.read32, Buffer.read16, Buffer.read8_write8, h₀, h₁, h₂, h₃]

/-- Settles O47: a word32 and its four octets are the same octets of `BUF`, whichever width writes them. -/
theorem widthsSeeEachOther : Obligations.WidthsSeeEachOther := by
  intro s i ok wf ha hi
  have hn : s.bufLen.val ≤ 65536 := s.bufLen.isLt.le
  have lt (k : Nat) (hk : k < 4) : i.toNat + k < s.bufLen.val := by omega
  have idx (k : Nat) (hk : k < 4) : (i + BitVec.ofNat 16 k).toNat = i.toNat + k := toNat_bufIndex_add hn (lt k hk)
  have octet (k : Nat) (hk : k < 4) : (s.buf.octet? (i.toNat + k)).isSome = true :=
    (Memory.wf.isSome_iff wf _).mpr (lt k hk)
  refine ⟨fun v => ⟨_, exec_stw_of_fits v ok ha hi, fun k hk =>
    ⟨_, exec_ldb_of_lt ((idx k hk).trans_lt (lt k hk)), ?_⟩⟩, fun x₀ x₁ x₂ x₃ => ?_⟩
  · simp only [State.respond_responses, State.respond_buf, idx k hk, Buffer.read8_write32 v hk (octet k hk)]
  · have i₁ : (i + 1).toNat = i.toNat + 1 := idx 1 (by decide)
    have i₂ : (i + 2).toNat = i.toNat + 2 := idx 2 (by decide)
    have i₃ : (i + 3).toNat = i.toNat + 3 := idx 3 (by decide)
    refine ⟨_, exec_stb_of_lt x₀ ok (lt 0 (by decide)), _, exec_stb_of_lt x₁ ok (i₁.trans_lt (lt 1 (by decide))),
      _, exec_stb_of_lt x₂ ok (i₂.trans_lt (lt 2 (by decide))),
      _, exec_stb_of_lt x₃ ok (i₃.trans_lt (lt 3 (by decide))), _, exec_ldw_of_fits ha hi, ?_⟩
    simp only [State.respond_responses, State.respond_buf, i₁, i₂, i₃]
    rw [Buffer.read32_write8_four x₀ x₁ x₂ x₃ octet, cat16_cat8_eq_ofNat]

end Sys2Proof.Machine
end

section
/-! PROOFS. The encoding: the decoder and the encoder undo each other, but for the bits the block ignores. -/

namespace Sys2Proof

/-! ### The canonical form of a transaction (R87) -/

/-- A transaction with the bits the block ignores set to zero: `canonicalWord` on the four fields (R87). -/
def Transaction.canonical : Transaction → Transaction
  | ⟨.read, z, off, _⟩ => ⟨.read, z, off, 0⟩
  | ⟨.write, .octet, off, data⟩ => ⟨.write, .octet, off, (data.extractLsb' 0 8).zeroExtend 32⟩
  | ⟨.write, .word32, off, data⟩ => ⟨.write, .word32, off, data⟩

/-- The canonical word is the canonical transaction, joined. -/
theorem canonicalWord_eq_joinWord (T : TransactionWord) : canonicalWord T = joinWord (splitWord T).canonical := by
  unfold canonicalWord
  obtain ⟨d, z, off, data⟩ := splitWord T
  cases d
  · rfl
  · cases z <;> rfl

/-- The canonical word has the canonical fields. -/
theorem splitWord_canonicalWord (T : TransactionWord) : splitWord (canonicalWord T) = (splitWord T).canonical := by
  rw [canonicalWord_eq_joinWord, splitWord_joinWord]

/-- The low octet of an octet zero-extended is the octet. -/
@[simp] theorem extractLsb'_zeroExtend_octet (v : Octet) : (v.zeroExtend 32).extractLsb' 0 8 = v := by
  apply BitVec.eq_of_toNat_eq
  rw [toNat_extractLsb', BitVec.toNat_setWidth]
  omega

/-- The decoder reads no bit that the block ignores (R87, R89). -/
theorem decodeTransaction_canonical (t : Transaction) : decodeTransaction t.canonical = decodeTransaction t := by
  obtain ⟨d, z, off, data⟩ := t
  cases d <;> cases z
  case write.octet => simp [Transaction.canonical, decodeTransaction, decodeBuffer]
  case read.octet | read.word32 | write.word32 => rfl

/-- Settles O4: both words decode as their common canonical form does. -/
theorem ignoredBitsDoNotMatter : Obligations.IgnoredBitsDoNotMatter := by
  intro T U h
  have canonical : (splitWord T).canonical = (splitWord U).canonical := by
    rw [← splitWord_canonicalWord, h, splitWord_canonicalWord]
  calc decode T = decodeTransaction (splitWord T).canonical := (decodeTransaction_canonical _).symm
    _ = decodeTransaction (splitWord U).canonical := by rw [canonical]
    _ = decode U := decodeTransaction_canonical _

/-! ### Command words (R88) -/

/-- The three fields of the command word `16h + op` (R88). -/
theorem commandWord_fields (h : BitVec 4) {op : Nat} (hop : op < 16) :
    (BitVec.ofNat 32 (16 * h.toNat + op)).extractLsb' 8 24 = 0 ∧
    (BitVec.ofNat 32 (16 * h.toNat + op)).extractLsb' 4 4 = h ∧
    (BitVec.ofNat 32 (16 * h.toNat + op)).extractLsb' 0 4 = BitVec.ofNat 4 op := by
  refine ⟨?_, ?_, ?_⟩ <;> apply BitVec.eq_of_toNat_eq <;> rw [toNat_extractLsb', BitVec.toNat_ofNat]
  · change _ = 0
    omega
  · omega
  · rw [BitVec.toNat_ofNat]
    omega

/-- A data word whose reserved bits are zero is the command word of its two fields (R88). -/
theorem eq_commandWord {d : Word32} (reserved : d.extractLsb' 8 24 = 0) :
    d = BitVec.ofNat 32 (16 * (d.extractLsb' 4 4).toNat + (d.extractLsb' 0 4).toNat) := by
  have hr : d.toNat / 2 ^ 8 % 2 ^ 24 = 0 := by rw [← toNat_extractLsb', reserved]; rfl
  apply BitVec.eq_of_toNat_eq
  rw [BitVec.toNat_ofNat, toNat_extractLsb', toNat_extractLsb']
  omega

/-- The command word of `CKSUM h` (R88). -/
theorem decodeCommand_cksum (h : BitVec 4) : decodeCommand (BitVec.ofNat 32 (16 * h.toNat + 2)) = .op (.cksum h) := by
  obtain ⟨reserved, length, op⟩ := commandWord_fields h (op := 2) (by decide)
  rw [decodeCommand, if_neg (not_not.mpr reserved), op, length, if_neg (by decide), if_pos (by rfl)]

/-- A data word that is a command is the data its operation encodes to (R88). -/
theorem transactionOf_of_decodeCommand {d : Word32} {i : Instr} (h : decodeCommand d = .op i) :
    i.wf = true ∧ transactionOf i = ⟨.write, .word32, 0, d⟩ := by
  unfold decodeCommand at h
  split at h
  · cases h
  next reserved =>
    have hd := eq_commandWord (not_not.mp reserved)
    split at h
    next op =>
      split at h <;> cases h
      next length =>
        rw [op, not_not.mp length] at hd
        exact ⟨rfl, congrArg (Transaction.mk .write .word32 0) hd.symm⟩
    next =>
      split at h <;> cases h
      next op =>
        rw [op] at hd
        exact ⟨rfl, congrArg (Transaction.mk .write .word32 0) hd.symm⟩

/-! ### Field registers (R51, R88) -/

theorem transactionOf_wrf (f : Field) (v : Word32) :
    transactionOf (.wrf f v) = ⟨.write, .word32, fieldOffset f, v⟩ := by
  cases f <;> rfl

theorem transactionOf_rdf (f : Field) : transactionOf (.rdf f) = ⟨.read, .word32, fieldOffset f, 0⟩ := by
  cases f <;> rfl

theorem Instr.wf_wrf (f : Field) (v : Word32) : (Instr.wrf f v).wf = true := by cases f <;> rfl

theorem Instr.wf_rdf (f : Field) : (Instr.rdf f).wf = true := by cases f <;> rfl

/-- An aligned word32 access below the buffer window is decoded by the register window (R89). -/
theorem decodeTransaction_register {off : HostOffset} (window : off.getLsbD 16 = false)
    (aligned : off.extractLsb' 0 2 = 0) (d : Dir) (x : Word32) :
    decodeTransaction ⟨d, .word32, off, x⟩ = decodeRegister ⟨d, .word32, off, x⟩ := by
  rw [decodeTransaction, if_pos window, if_neg (by simp), if_neg (not_not.mpr aligned)]

/-- A field register's offset lies past the command and status locations, inside the field window (R51). -/
theorem fieldOffset_range (f : Field) : 0x20 ≤ (fieldOffset f).toNat ∧ (fieldOffset f).toNat ≤ 0x3C := by
  cases f <;> decide

/-- Bits 4:2 of a field register's offset name the register (R51, R88). -/
theorem fieldOfIndex_fieldOffset (f : Field) : fieldOfIndex ((fieldOffset f).extractLsb' 2 3) = f := by
  cases f <;> rfl

/-- An access at a field register's offset is its `RDF` on a read, whatever the data, and its `WRF` on a write (R51). -/
theorem decodeTransaction_fieldOffset (d : Dir) (f : Field) (x : Word32) :
    decodeTransaction ⟨d, .word32, fieldOffset f, x⟩ = .op (if d = .read then .rdf f else .wrf f x) := by
  have window : (fieldOffset f).getLsbD 16 = false := by cases f <;> rfl
  have aligned : (fieldOffset f).extractLsb' 0 2 = 0 := by cases f <;> rfl
  have ne (o : HostOffset) (ho : o.toNat < 0x20) : fieldOffset f ≠ o := by
    rintro rfl
    exact absurd (fieldOffset_range f).1 (by omega)
  rw [decodeTransaction_register window aligned, decodeRegister, if_neg (ne _ (by decide)), if_neg (ne _ (by decide)),
    if_neg (ne _ (by decide)), if_neg (ne _ (by decide)), if_pos (fieldOffset_range f), fieldOfIndex_fieldOffset]
  cases d <;> rfl

/-- Each of the eight field indices stands for one register (R88). -/
theorem indexOfField_fieldOfIndex (f : BitVec 3) : indexOfField (fieldOfIndex f) = f.toNat := by
  revert f; decide

/-- An aligned offset among the field registers is the offset of the register its bits 4:2 name (R51, R88). -/
theorem fieldOffset_fieldOfIndex {off : HostOffset} (aligned : off.extractLsb' 0 2 = 0) (low : 0x20 ≤ off.toNat)
    (high : off.toNat ≤ 0x3C) : fieldOffset (fieldOfIndex (off.extractLsb' 2 3)) = off := by
  have ha : off.toNat / 2 ^ 0 % 2 ^ 2 = 0 := by rw [← toNat_extractLsb', aligned]; rfl
  apply BitVec.eq_of_toNat_eq
  rw [fieldOffset, indexOfField_fieldOfIndex, BitVec.toNat_ofNat, toNat_extractLsb']
  omega

/-! ### The buffer window (R51, R57) -/

theorem toNat_bufOffset (i : BufIndex) : (bufOffset i).toNat = 0x10000 + i.toNat := by
  rw [bufOffset, BitVec.toNat_ofNat]
  omega

/-- The buffer's offsets have bit 16 set (R51). -/
theorem getLsbD_bufOffset (i : BufIndex) : (bufOffset i).getLsbD 16 = true := by
  rw [BitVec.getLsbD, Nat.testBit_eq_decide_div_mod_eq, toNat_bufOffset, decide_eq_true_eq]
  omega

/-- The index is the low 16 bits of its offset (R87). -/
theorem extractLsb'_bufOffset (i : BufIndex) : (bufOffset i).extractLsb' 0 16 = i := by
  apply BitVec.eq_of_toNat_eq
  rw [toNat_extractLsb', toNat_bufOffset]
  omega

/-- An offset with bit 16 set is the offset of the index in its low 16 bits (R51, R87). -/
theorem bufOffset_extractLsb' {off : HostOffset} (h : off.getLsbD 16 = true) :
    bufOffset (off.extractLsb' 0 16) = off := by
  rw [BitVec.getLsbD, Nat.testBit_eq_decide_div_mod_eq, decide_eq_true_eq] at h
  apply BitVec.eq_of_toNat_eq
  rw [toNat_bufOffset, toNat_extractLsb']
  omega

/-- The decoder's test for a multiple of 4 is the one of well-formedness (R57). -/
theorem aligned4_iff (i : BufIndex) : aligned4 i = true ↔ i.extractLsb' 0 2 = 0 := by
  rw [aligned4, beq_iff_eq, ← BitVec.toNat_inj, toNat_extractLsb', Nat.pow_zero, Nat.div_one]
  rfl

/-- An access at a buffer offset is decoded by the buffer window (R89). -/
theorem decodeTransaction_bufOffset (d : Dir) (z : Size) (i : BufIndex) (x : Word32) :
    decodeTransaction ⟨d, z, bufOffset i, x⟩ = decodeBuffer ⟨d, z, bufOffset i, x⟩ := by
  rw [decodeTransaction, if_neg (by simp [getLsbD_bufOffset])]

/-! ### Decoding what was encoded -/

/-- The transaction of a well-formed instruction decodes to it (R89, R93). -/
theorem decodeTransaction_transactionOf {i : Instr} (wf : i.wf = true) :
    decodeTransaction (transactionOf i) = .op i := by
  cases i with
  | pack => rfl
  | cksum h => exact (decodeTransaction_register rfl rfl _ _).trans (decodeCommand_cksum h)
  | wrfVer v => exact decodeTransaction_fieldOffset .write .ver v
  | wrfIhl v => exact decodeTransaction_fieldOffset .write .ihl v
  | wrfTlen v => exact decodeTransaction_fieldOffset .write .tlen v
  | wrfId v => exact decodeTransaction_fieldOffset .write .id v
  | wrfTtl v => exact decodeTransaction_fieldOffset .write .ttl v
  | wrfProto v => exact decodeTransaction_fieldOffset .write .proto v
  | wrfSrc v => exact decodeTransaction_fieldOffset .write .src v
  | wrfDst v => exact decodeTransaction_fieldOffset .write .dst v
  | rdfVer => exact decodeTransaction_fieldOffset .read .ver 0
  | rdfIhl => exact decodeTransaction_fieldOffset .read .ihl 0
  | rdfTlen => exact decodeTransaction_fieldOffset .read .tlen 0
  | rdfId => exact decodeTransaction_fieldOffset .read .id 0
  | rdfTtl => exact decodeTransaction_fieldOffset .read .ttl 0
  | rdfProto => exact decodeTransaction_fieldOffset .read .proto 0
  | rdfSrc => exact decodeTransaction_fieldOffset .read .src 0
  | rdfDst => exact decodeTransaction_fieldOffset .read .dst 0
  | rdstatus => rfl
  | rdcsum => rfl
  | rdbuflen => rfl
  | ldb i => rw [transactionOf, decodeTransaction_bufOffset, decodeBuffer, extractLsb'_bufOffset]
  | stb i v =>
    rw [transactionOf, decodeTransaction_bufOffset, decodeBuffer, extractLsb'_bufOffset, extractLsb'_zeroExtend_octet]
  | ldw i =>
    have aligned : i.extractLsb' 0 2 = 0 := (aligned4_iff i).mp wf
    simp [transactionOf, decodeTransaction_bufOffset, decodeBuffer, extractLsb'_bufOffset, aligned]
  | stw i v =>
    have aligned : i.extractLsb' 0 2 = 0 := (aligned4_iff i).mp wf
    simp [transactionOf, decodeTransaction_bufOffset, decodeBuffer, extractLsb'_bufOffset, aligned]

/-- Settles O2: the word's fields are the instruction's transaction, which decodes to it. -/
theorem decodeOfEncode : Obligations.DecodeOfEncode := by
  intro i wf
  rw [decode, encode, splitWord_joinWord, decodeTransaction_transactionOf wf]

/-! ### Encoding what was decoded -/

/-- A location that may only be read decodes to its operation on a read only, which encodes to that read. -/
theorem transactionOf_of_readOnly {d : Dir} {off : HostOffset} {data : Word32} {j i : Instr} (wf : j.wf = true)
    (hj : transactionOf j = ⟨.read, .word32, off, 0⟩) (h : readOnly d j = .op i) :
    i.wf = true ∧ transactionOf i = Transaction.canonical ⟨d, .word32, off, data⟩ := by
  cases d with
  | read => cases h; exact ⟨wf, hj⟩
  | write => cases h

/-- What an aligned word32 access to the register window decodes to encodes to that access (R51, R87). -/
theorem transactionOf_of_decodeRegister {d : Dir} {off : HostOffset} {data : Word32} {i : Instr}
    (aligned : off.extractLsb' 0 2 = 0) (h : decodeRegister ⟨d, .word32, off, data⟩ = .op i) :
    i.wf = true ∧ transactionOf i = Transaction.canonical ⟨d, .word32, off, data⟩ := by
  unfold decodeRegister at h
  dsimp only at h
  split at h
  · subst off
    cases d with
    | read => cases h
    | write => exact transactionOf_of_decodeCommand h
  split at h
  · subst off
    exact transactionOf_of_readOnly rfl rfl h
  split at h
  · subst off
    exact transactionOf_of_readOnly rfl rfl h
  split at h
  · subst off
    exact transactionOf_of_readOnly rfl rfl h
  split at h
  next range =>
    obtain ⟨low, high⟩ := range
    have hoff := fieldOffset_fieldOfIndex aligned low high
    cases d <;> cases h
    · exact ⟨Instr.wf_rdf _, by rw [transactionOf_rdf, hoff]; rfl⟩
    · exact ⟨Instr.wf_wrf _ _, by rw [transactionOf_wrf, hoff]; rfl⟩
  · cases h

/-- What an access to the buffer window decodes to encodes to that access (R51, R87). -/
theorem transactionOf_of_decodeBuffer {t : Transaction} {i : Instr} (window : t.off.getLsbD 16 = true)
    (h : decodeBuffer t = .op i) : i.wf = true ∧ transactionOf i = t.canonical := by
  obtain ⟨d, z, off, data⟩ := t
  have hoff := bufOffset_extractLsb' window
  dsimp only at hoff
  cases z <;> cases d <;> dsimp only [decodeBuffer] at h
  case octet.read | octet.write =>
    cases h
    exact ⟨rfl, by rw [transactionOf, hoff]; rfl⟩
  case word32.read | word32.write =>
    split at h <;> cases h
    next aligned => exact ⟨(aligned4_iff _).mpr (not_not.mp aligned), by rw [transactionOf, hoff]; rfl⟩

/-- A transaction that decodes to an operation is that operation's, but for the bits the block ignores (R87, R89). -/
theorem transactionOf_of_decodeTransaction {t : Transaction} {i : Instr} (h : decodeTransaction t = .op i) :
    i.wf = true ∧ transactionOf i = t.canonical := by
  obtain ⟨d, z, off, data⟩ := t
  unfold decodeTransaction at h
  split at h
  · cases z with
    | octet => cases h
    | word32 =>
      rw [if_neg (by simp)] at h
      split at h
      · cases h
      next aligned => exact transactionOf_of_decodeRegister (not_not.mp aligned) h
  next window => exact transactionOf_of_decodeBuffer (Bool.eq_true_of_not_eq_false window) h

/-- Settles O3: the operation's transaction is the word's own in canonical form. -/
theorem encodeOfDecode : Obligations.EncodeOfDecode := by
  intro T i h
  obtain ⟨wf, e⟩ := transactionOf_of_decodeTransaction h
  exact ⟨wf, by rw [encode, e, canonicalWord_eq_joinWord]⟩

/-! ### The words the spec prints -/

/-- Settles O1: thirteen fixed words, each evaluated. -/
theorem specWordsDecodeAsPrinted : Obligations.SpecWordsDecodeAsPrinted := by
  unfold Obligations.SpecWordsDecodeAsPrinted
  decide

end Sys2Proof

namespace Sys2Proof.Machine

/-! ### One response to each transaction (R98, R258) -/

/-- Every operation answers exactly once, and leaves the script and the resets alone. -/
theorem exec_answered (i : Instr) (s : State) : Completes (exec i s) fun t => ∃ r, Answered s t r := by
  obtain ⟨t, e, cases⟩ := exec_cases i s
  refine ⟨t, e, ?_⟩
  rcases cases with ⟨-, -, rfl⟩ | ⟨-, c, -, rfl⟩ | ⟨-, -, v, rfl⟩ | ⟨-, -, -, r, w, c, v, rfl⟩
  all_goals exact ⟨_, rfl, rfl, rfl⟩

/-- A decode fault answers exactly once, and leaves the script and the resets alone. -/
theorem State.decodeFault_answered (s : State) (dir : Dir) (c : DecodeFault) :
    Answered s (s.decodeFault dir c) ⟨false, 0⟩ := by
  rcases s.decodeFault_cases dir c with ⟨-, -, e⟩ | ⟨-, e⟩ <;> rw [e] <;> exact ⟨rfl, rfl, rfl⟩

/-- Settles O9: an idle step and a reset have no transaction to answer; an operation and a decode fault answer once. -/
theorem everyTransactionIsAnsweredOnce : Obligations.EveryTransactionIsAnsweredOnce := by
  intro s
  rcases step_cases s with ⟨hs, e⟩ | ⟨rest, hs, e⟩ | ⟨T, rest, i, hs, -, e⟩ | ⟨T, rest, c, hs, -, e⟩
  · exact ⟨s, e, by simp [hs], by simp [hs]⟩
  · exact ⟨_, e, by simp [hs], by simp [hs]⟩
  · obtain ⟨t, e', r, responses, script, resets⟩ := exec_answered i { s with script := rest }
    exact ⟨t, e.trans e', by rw [script, hs, List.tail_cons], fun _ _ _ => ⟨r, responses, resets⟩⟩
  · obtain ⟨responses, script, resets⟩ := State.decodeFault_answered { s with script := rest } (splitWord T).dir c
    exact ⟨_, e, by rw [script, hs, List.tail_cons], fun _ _ _ => ⟨⟨false, 0⟩, responses, resets⟩⟩

end Sys2Proof.Machine
end

section
/-! PROOFS. The header builder: what `PACK` writes and leaves alone, the header read back, and the header sealed by
`CKSUM`. -/

namespace Sys2Proof.Machine

/-! ### `PACK` as a transaction (R110 to R112) -/

/-- `PACK` on an unfaulted block that holds a header (R110, R111). -/
theorem exec_pack_of_fits {s : State} (ok : s.err = 0) (hl : 20 ≤ s.bufLen.val) :
    exec .pack s = .next (s.packed.respond true 0) := by
  rw [exec, execPack, State.checkPack_eq_none.mpr hl, State.performWrite_none ok]

/-- A buffer below 20 octets fails the check of `PACK` (R111). -/
theorem State.checkPack_of_lt {s : State} (hl : s.bufLen.val < 20) : s.checkPack = some .bufferTooSmall := if_pos hl

/-- Settles O24: the check fails, and taking the fault in an unfaulted block latches code 1 and nothing else. -/
theorem packIntoSmallBufferWritesNothing : Obligations.PackIntoSmallBufferWritesNothing := by
  intro s ok hl
  rw [exec, execPack, State.checkPack_of_lt hl, State.performWrite_some ok, State.raise, ok, latchErr_zero]
  rfl

/-! ### The octets of the header (R81) -/

/-- The nibbles of an octet as a number (R11). -/
theorem cat4_eq_ofNat (hi lo : BitVec 4) : cat4 hi lo = BitVec.ofNat 8 (16 * hi.toNat + lo.toNat) := by
  apply BitVec.eq_of_toNat_eq
  rw [toNat_cat4, BitVec.toNat_ofNat]
  omega

section
variable {s : State} (wf : Memory.wf s.bufLen.val s.buf = true) (hl : 20 ≤ s.bufLen.val)
include wf hl

/-- An octet below 20 holds the header image after `PACK` (R110). -/
theorem State.octet?_packed_of_lt {j : Nat} (hj : j < 20) :
    s.packed.buf.octet? j = Buffer.octet? (headerImage s.fields) j := by
  rw [State.octet?_packed wf hl, if_pos hj]

/-- An octet from 20 on is left alone by `PACK` (R113). -/
theorem State.octet?_packed_of_ge {j : Nat} (hj : 20 ≤ j) : s.packed.buf.octet? j = s.buf.octet? j := by
  rw [State.octet?_packed wf hl, if_neg (by omega)]

/-- An octet below 20 reads as the header image after `PACK` (R110). -/
theorem State.read8_packed_of_lt {j : Nat} (hj : j < 20) :
    s.packed.buf.read8 j = Buffer.read8 (headerImage s.fields) j :=
  Buffer.read8_congr (State.octet?_packed_of_lt wf hl hj)

end

/-- Settles O23: each octet below 20 is the header image's, the others stand, and `PACK` writes nothing but `BUF`. -/
theorem packPlacesEveryField : Obligations.PackPlacesEveryField := by
  intro s ok wf hl
  have image {j : Nat} (hj : j < 20 := by decide) : s.packed.buf.octet? j = Buffer.octet? (headerImage s.fields) j :=
    State.octet?_packed_of_lt wf hl hj
  refine ⟨_, exec_pack_of_fits ok hl, ⟨rfl, rfl, rfl⟩, rfl, rfl, rfl, rfl,
    Eq.trans image (congrArg some (cat4_eq_ofNat _ _)), image, image, image, image, image, image, image, image, image,
    image, image, image, image, image, image, image, image, image, image,
    fun a ha => State.octet?_packed_of_ge wf hl ha⟩

/-! ### The header reads back (R97, R116) -/

theorem cat8_zero : cat8 0#8 0#8 = 0#16 := rfl

/-- The header image reads back as the registers and a zero checksum (R116). -/
theorem parseHeader_headerImage (r : Fields) : Buffer.parseHeader (headerImage r) = ⟨r, 0⟩ := by
  simp [Buffer.parseHeader, Buffer.read32, Buffer.read16, Buffer.read8, headerImage, Buffer.octet?, cat8_zero]

/-- Field extraction reads octets 0 to 19 only (R97). -/
theorem Buffer.parseHeader_congr {b c : Buffer} (h : ∀ j < 20, b.read8 j = c.read8 j) :
    b.parseHeader = c.parseHeader := by
  simp [Buffer.parseHeader, Buffer.read32, Buffer.read16, h]

/-- The header `PACK` leaves reads back as the registers and a zero checksum (R116). -/
theorem State.parseHeader_packed {s : State} (wf : Memory.wf s.bufLen.val s.buf = true) (hl : 20 ≤ s.bufLen.val) :
    s.packed.buf.parseHeader = ⟨s.fields, 0⟩ :=
  (Buffer.parseHeader_congr fun _ => State.read8_packed_of_lt wf hl).trans (parseHeader_headerImage s.fields)

/-- Settles O25: octets 0 to 19 are the header image, which reads back as the registers. -/
theorem packRoundTrip : Obligations.PackRoundTrip := by
  intro s ok wf hl
  exact ⟨_, exec_pack_of_fits ok hl, State.parseHeader_packed wf hl⟩

/-- Settles O50: the octets that validity wants zero are zero for every input, and the version and length read back
as the registers. -/
theorem packIsValidExactlyForVersionFourLengthFive : Obligations.PackIsValidExactlyForVersionFourLengthFive := by
  intro s ok wf hl
  have zero (j : Nat) (hj : j ∈ [1, 6, 7, 10, 11]) : s.packed.buf.octet? j = some 0 := by
    rw [State.octet?_packed_of_lt wf hl (by simp at hj; omega)]
    fin_cases hj <;> rfl
  refine ⟨_, exec_pack_of_fits ok hl, rfl, ?_⟩
  rw [State.respond_buf, Buffer.SyntacticallyValid, State.parseHeader_packed wf hl, zero 1 (by decide),
    zero 6 (by decide), zero 7 (by decide), zero 10 (by decide), zero 11 (by decide)]
  simp

/-! ### Which registers a header octet depends on (R117, R118) -/

theorem zeroExtend_injective {w : Nat} (hw : w ≤ 32) {x y : BitVec w} (h : x.zeroExtend 32 = y.zeroExtend 32) :
    x = y := by
  have := congrArg (BitVec.setWidth w) h
  simpa [BitVec.setWidth_setWidth_of_le _ hw] using this

/-- An octet of the header image is the same for two register files that agree on the registers it belongs to
(R117). -/
theorem octet?_headerImage_congr {r q : Fields} {a : Nat} (ha : a < 20)
    (h : ∀ f, a ∈ fieldOctets f → q.read f = r.read f) :
    Buffer.octet? (headerImage q) a = Buffer.octet? (headerImage r) a := by
  have ver (m : a ∈ fieldOctets .ver) : q.ver = r.ver := zeroExtend_injective (by decide) (h .ver m)
  have ihl (m : a ∈ fieldOctets .ihl) : q.ihl = r.ihl := zeroExtend_injective (by decide) (h .ihl m)
  have tlen (m : a ∈ fieldOctets .tlen) : q.tlen = r.tlen := zeroExtend_injective (by decide) (h .tlen m)
  have id (m : a ∈ fieldOctets .id) : q.id = r.id := zeroExtend_injective (by decide) (h .id m)
  have ttl (m : a ∈ fieldOctets .ttl) : q.ttl = r.ttl := zeroExtend_injective (by decide) (h .ttl m)
  have proto (m : a ∈ fieldOctets .proto) : q.proto = r.proto := zeroExtend_injective (by decide) (h .proto m)
  have src (m : a ∈ fieldOctets .src) : q.src = r.src := h .src m
  have dst (m : a ∈ fieldOctets .dst) : q.dst = r.dst := h .dst m
  clear h
  interval_cases a <;> simp_all [fieldOctets, headerImage, Buffer.octet?]

/-- Settles O26: an octet below 20 is the header image's, where only its own registers count; the tail is not
written. -/
theorem packFieldsAreIndependent : Obligations.PackFieldsAreIndependent := by
  intro s₁ s₂ t₁ t₂ ok₁ ok₂ wf₁ wf₂ hl₁ hl₂ e₁ e₂
  rw [exec_pack_of_fits ok₁ hl₁] at e₁
  rw [exec_pack_of_fits ok₂ hl₂] at e₂
  cases e₁
  cases e₂
  have header := State.parseHeader_packed wf₁ hl₁
  have own (a : Nat) (ha : a < 20) (h : ∀ f, a ∈ fieldOctets f → s₂.fields.read f = s₁.fields.read f) :
      s₂.packed.buf.octet? a = s₁.packed.buf.octet? a := by
    rw [State.octet?_packed_of_lt wf₁ hl₁ ha, State.octet?_packed_of_lt wf₂ hl₂ ha]
    exact octet?_headerImage_congr ha h
  refine ⟨congrArg (·.fields.ver) header, congrArg (·.fields.ihl) header, own, fun f others tail a ha => ?_⟩
  by_cases h : a < 20
  · exact own a h fun g hg => others g (by rintro rfl; exact ha hg)
  · exact (State.octet?_packed_of_ge wf₂ hl₂ (by omega)).trans (tail a (by omega))

/-- Settles O27: both buffers hold the one header image and the one tail. -/
theorem packDoesNotReadTheBuffer : Obligations.PackDoesNotReadTheBuffer := by
  intro s₁ s₂ t₁ t₂ ok₁ ok₂ hl₁ len wf₁ wf₂ fields tail e₁ e₂
  have hl₂ : 20 ≤ s₂.bufLen.val := by rw [len]; exact hl₁
  rw [exec_pack_of_fits ok₁ hl₁] at e₁
  rw [exec_pack_of_fits ok₂ hl₂] at e₂
  cases e₁
  cases e₂
  refine Memory.wf.ext (n := s₁.bufLen.val) (by simpa [len] using wf₂) (by simpa using wf₁) fun a _ => ?_
  simp only [State.respond_buf]
  rw [State.octet?_packed wf₁ hl₁, State.octet?_packed wf₂ hl₂, fields]
  split
  · rfl
  · exact tail a (by omega)

/-! ### The fold (R142, R143) -/

/-- A pass keeps the sum modulo 0xFFFF, because 0x10000 is 1 there. -/
theorem foldPass_mod (S : Nat) : foldPass S % 0xFFFF = S % 0xFFFF := by unfold foldPass; omega

/-- A pass keeps a positive sum positive. -/
theorem foldPass_pos {S : Nat} (h : 0 < S) : 0 < foldPass S := by unfold foldPass; omega

/-- The loop keeps the sum modulo 0xFFFF, however many passes it takes. -/
theorem foldLoop_mod (f S : Nat) : foldLoop f S % 0xFFFF = S % 0xFFFF := by
  induction f generalizing S with
  | zero => rfl
  | succ f ih =>
    rw [foldLoop]
    split
    · rw [ih, foldPass_mod]
    · rfl

/-- The loop keeps a positive sum positive, however many passes it takes. -/
theorem foldLoop_pos (f : Nat) {S : Nat} (h : 0 < S) : 0 < foldLoop f S := by
  induction f generalizing S with
  | zero => exact h
  | succ f ih =>
    rw [foldLoop]
    split
    · exact ih (foldPass_pos h)
    · exact h

/-- With a pass for each unit of the sum the loop ends below 0x10000. -/
theorem foldLoop_le {f S : Nat} (h : S ≤ f) : foldLoop f S ≤ 0xFFFF := by
  induction f generalizing S with
  | zero => rw [foldLoop]; omega
  | succ f ih =>
    rw [foldLoop]
    split
    next wide => exact ih (by have := foldPass_lt wide; omega)
    · omega

theorem fold16_mod (S : Nat) : fold16 S % 0xFFFF = S % 0xFFFF := foldLoop_mod S S

theorem fold16_pos {S : Nat} (h : 0 < S) : 0 < fold16 S := foldLoop_pos S h

theorem fold16_le (S : Nat) : fold16 S ≤ 0xFFFF := foldLoop_le le_rfl

/-- The complement of a folded sum as a number (R143). -/
theorem toNat_complement16 (S : Nat) : (complement16 S).toNat = 0xFFFF - fold16 S := by
  have := fold16_le S
  rw [complement16, BitVec.toNat_not, BitVec.toNat_ofNat]
  omega

/-- A sum and the complement of its fold fold to 0xFFFF (R151): together they are a positive multiple of 0xFFFF. -/
theorem fold16_add_complement16 (S : Nat) : fold16 (S + (complement16 S).toNat) = 0xFFFF := by
  have le := fold16_le S
  have mod := fold16_mod S
  have zero : S = 0 → fold16 S = 0 := by rintro rfl; rfl
  rw [toNat_complement16]
  have pos : 0 < S + (0xFFFF - fold16 S) := by omega
  have le' := fold16_le (S + (0xFFFF - fold16 S))
  have mod' := fold16_mod (S + (0xFFFF - fold16 S))
  have pos' := fold16_pos pos
  omega

/-! ### The sum over a header, its checksum included (R140, R146, R151) -/

/-- Two more octets of a buffer. -/
theorem Buffer.octets_add_two (b : Buffer) (n : Nat) :
    b.octets (n + 2) = b.octets n ++ [b.read8 n, b.read8 (n + 1)] := by
  simp [Buffer.octets, List.range_succ]

@[simp] theorem Buffer.length_octets (b : Buffer) (n : Nat) : (b.octets n).length = n := by simp [Buffer.octets]

/-- The sum of the first `n` word16s is `CKSUM`'s, but for the checksum field, which `CKSUM` counts as zero (R148). -/
theorem sum16_words16_octets (b : Buffer) (n : Nat) :
    sum16 (words16 (b.octets (2 * n))) = spanSum b n + if 5 < n then (b.read16 10).toNat else 0 := by
  induction n with
  | zero => rfl
  | succ n ih =>
    have turn : sum16 (words16 (b.octets (2 * (n + 1)))) =
        sum16 (words16 (b.octets (2 * n))) + (b.read16 (2 * n)).toNat := by
      rw [Nat.mul_succ, Buffer.octets_add_two, words16_append_pair _ _ _ (by simp), sum16_append]
      rfl
    rw [turn, ih, spanSum, spanWord]
    obtain h | rfl | h : n < 5 ∨ n = 5 ∨ 5 < n := by omega
    · rw [if_neg (by omega), if_neg (by omega), if_neg (by omega)]
      omega
    · simp
    · rw [if_pos h, if_neg (by omega), if_pos (by omega)]
      omega

/-- A word16 written to octets that exist reads back (R60). -/
theorem Buffer.read16_write16_self {b : Buffer} {i : Nat} (v : Word16) (h₀ : (b.octet? i).isSome = true)
    (h₁ : (b.octet? (i + 1)).isSome = true) : (b.write16 i v).read16 i = v := by
  have high : (b.write16 i v).read8 i = v.extractLsb' 8 8 := Buffer.read8_writeAll_of_some h₀ (by simp [Buffer.octet?])
  have low : (b.write16 i v).read8 (i + 1) = v.extractLsb' 0 8 :=
    Buffer.read8_writeAll_of_some h₁ (by simp [Buffer.octet?])
  rw [Buffer.read16, high, low, cat8_octets]

/-- Writing the checksum field does not change what `CKSUM` sums (R148). -/
theorem spanSum_write16_checksum (b : Buffer) (v : Word16) (n : Nat) : spanSum (b.write16 10 v) n = spanSum b n :=
  spanSum_congr n fun _ _ h₁₀ h₁₁ => b.octet?_write16_of_outside v (by omega)

/-! ### The header sealed (R113, R116, R151) -/

/-- `CKSUM h` on an unfaulted block that holds the header (R146, R147). -/
theorem exec_cksum_of_fits {s : State} {h : BitVec 4} (ok : s.err = 0) (h5 : 5 ≤ h.toNat)
    (hl : 4 * h.toNat ≤ s.bufLen.val) :
    exec (.cksum h) s = .next ((s.sealed h).respond true ((s.checksum h).zeroExtend 32)) := by
  rw [exec, execCksum, State.checkCksum_eq_none.mpr ⟨h5, hl⟩, State.performWrite_none ok]

/-- `CKSUM` writes the checksum field of the header and nothing else in it (R146). -/
theorem Buffer.parseHeader_write16_checksum {b : Buffer} (v : Word16) (h₁₀ : (b.octet? 10).isSome = true)
    (h₁₁ : (b.octet? 11).isSome = true) : (b.write16 10 v).parseHeader = ⟨b.parseHeader.fields, v⟩ := by
  have other (j : Nat) (hj : j < 10 ∨ 12 ≤ j) : (b.write16 10 v).read8 j = b.read8 j :=
    Buffer.read8_congr (b.octet?_write16_of_outside v hj)
  rw [Buffer.parseHeader, Buffer.read16_write16_self v h₁₀ h₁₁]
  simp [Buffer.parseHeader, Buffer.read32, Buffer.read16, other]

/-- The word16s of a header that `CKSUM h` sealed, its checksum among them, fold to 0xFFFF (R151). -/
theorem State.fold16_sealed {s : State} {h : BitVec 4} (wf : Memory.wf s.bufLen.val s.buf = true) (h5 : 5 ≤ h.toNat)
    (hl : 4 * h.toNat ≤ s.bufLen.val) :
    fold16 (sum16 (words16 ((s.sealed h).buf.octets (4 * h.toNat)))) = 0xFFFF := by
  have octet (j : Nat) (hj : j < 12) : (s.buf.octet? j).isSome = true :=
    (Memory.wf.isSome_iff wf j).mpr (by omega)
  have four : 4 * h.toNat = 2 * (2 * h.toNat) := by omega
  rw [four, sum16_words16_octets, if_pos (by omega), State.sealed_buf, spanSum_write16_checksum,
    Buffer.read16_write16_self _ (octet 10 (by decide)) (octet 11 (by decide)), State.checksum]
  exact fold16_add_complement16 _

/-- Settles O48: `PACK` leaves the registers' header, and `CKSUM` completes it in the checksum field alone. -/
theorem buildMakesASealedHeader : Obligations.BuildMakesASealedHeader := by
  intro s ok wf h5 hl
  have hl20 : 20 ≤ s.bufLen.val := by omega
  have wf' : Memory.wf (s.packed.respond true 0).bufLen.val (s.packed.respond true 0).buf = true := by simpa using wf
  have octet (j : Nat) (hj : j < 20) : (s.packed.buf.octet? j).isSome = true :=
    (Memory.wf.isSome_iff wf' j).mpr (by simp; omega)
  refine ⟨_, exec_pack_of_fits ok hl20, _, exec_cksum_of_fits ok h5 hl, ?_, ?_, fun a ha => ?_, rfl, ok,
    by simp⟩
  · exact (Buffer.parseHeader_write16_checksum _ (octet 10 (by decide)) (octet 11 (by decide))).trans
      (by rw [State.parseHeader_packed wf hl20]; rfl)
  · rw [State.respond_buf]
    exact State.fold16_sealed wf' h5 hl
  · exact (Buffer.octet?_write16_of_outside _ _ (.inr (by omega))).trans (State.octet?_packed_of_ge wf hl20 ha)

end Sys2Proof.Machine
end

section
/-! PROOFS. The checksum engine: the parts of the checksum as arithmetic, and what `CKSUM` computes, stores and
leaves alone. -/

namespace Sys2Proof.Machine

/-! ### Octets to word16s (R140) -/

/-- Word16 `k` is octets `2k` and `2k + 1`, the missing one of an odd list zero (R140). -/
theorem getElem?_words16 (B : List Octet) {k : Nat} (hk : 2 * k < B.length) :
    (words16 B)[k]? = some (cat8 (B.getD (2 * k) 0) (B.getD (2 * k + 1) 0)) := by
  induction B using words16.induct generalizing k with
  | case1 => simp at hk
  | case2 x =>
    obtain rfl : k = 0 := by simp at hk; omega
    rfl
  | case3 x y rest ih =>
    cases k with
    | zero => rfl
    | succ k =>
      simp only [List.length_cons] at hk
      exact ih (by omega)

/-- A word16 for each two octets, and one for an odd last octet (R140). -/
theorem length_words16 (B : List Octet) : (words16 B).length = (B.length + 1) / 2 := by
  induction B using words16.induct with
  | case1 => rfl
  | case2 x => simp [words16]
  | case3 x y rest ih =>
    simp only [words16, List.length_cons, ih]
    omega

/-- Settles O34: the recursion of `words16` takes two octets a turn. -/
theorem words16Partition : Obligations.Words16Partition := by
  intro B
  refine ⟨length_words16 B, fun k hk => getElem?_words16 B ?_⟩
  rw [length_words16] at hk
  omega

/-! ### The laws of the fold (R142) -/

/-- A sum that fits 16 bits needs no pass (R142). -/
theorem fold16_of_le {S : Nat} (h : S ≤ 0xFFFF) : fold16 S = S := by
  rw [fold16]
  cases S with
  | zero => rfl
  | succ n => rw [foldLoop, if_neg (by omega)]

/-- A sum that is too wide folds to what its first pass leaves folds to (R142). -/
theorem fold16_of_wide {S : Nat} (h : 0xFFFF < S) : fold16 S = fold16 (foldPass S) := by
  have lower := foldPass_lt h
  rw [fold16, fold16, foldLoop_of_le S (S + 1) S le_rfl (by omega), foldLoop, if_pos h]
  exact foldLoop_of_le _ _ _ (by omega) le_rfl

theorem fold16_eq_zero {S : Nat} : fold16 S = 0 ↔ S = 0 := by
  constructor
  · intro h
    by_contra pos
    have := fold16_pos (Nat.pos_of_ne_zero pos)
    omega
  · rintro rfl
    rfl

/-- The fold of a positive sum is the one value from 1 to 0xFFFF congruent to it modulo 0xFFFF (R142). -/
theorem eq_fold16_iff {S x : Nat} (h : 0 < S) : x = fold16 S ↔ 1 ≤ x ∧ x ≤ 0xFFFF ∧ x % 0xFFFF = S % 0xFFFF := by
  have pos := fold16_pos h
  have le := fold16_le S
  have mod := fold16_mod S
  omega

/-- The fold depends on the sum modulo 0xFFFF only, and on whether the sum is zero. -/
theorem fold16_congr {S T : Nat} (mod : S % 0xFFFF = T % 0xFFFF) (zero : S = 0 ↔ T = 0) : fold16 S = fold16 T := by
  obtain rfl | pos := T.eq_zero_or_pos
  · rw [zero.mpr rfl]
  · exact (eq_fold16_iff pos).mpr ⟨fold16_pos (by omega), fold16_le S, (fold16_mod S).trans mod⟩

/-- Settles O35: a pass neither changes the sum modulo 0xFFFF nor makes it zero, and the loop ends below 0x10000. -/
theorem fold16Laws : Obligations.Fold16Laws := by
  refine fun S => ⟨?_, fold16_le S, fold16_eq_zero, fun x => eq_fold16_iff⟩
  split
  next wide => exact fold16_of_wide wide
  next fits => exact fold16_of_le (by omega)

/-! ### The bound of the sum (R141, R154) -/

theorem sum16_le (w : List Word16) : sum16 w ≤ w.length * 0xFFFF := by
  induction w with
  | nil => exact Nat.zero_le _
  | cons x xs ih =>
    have := x.isLt
    rw [sum16, List.length_cons]
    omega

theorem spanWord_le (b : Buffer) (k : Nat) : spanWord b k ≤ 0xFFFF := by
  have := (b.read16 (2 * k)).isLt
  unfold spanWord
  split <;> omega

/-- The checksum field counts as zero (R148). -/
theorem spanWord_five (b : Buffer) : spanWord b 5 = 0 := rfl

/-- The word16s of the span but the sixth, which counts as zero, are at most 0xFFFF each (R154). -/
theorem spanSum_le (b : Buffer) (n : Nat) : spanSum b n ≤ (if 5 < n then n - 1 else n) * 0xFFFF := by
  induction n with
  | zero => exact Nat.zero_le _
  | succ n ih =>
    have turn := spanWord_le b n
    rw [spanSum]
    obtain below | rfl | above : n < 5 ∨ n = 5 ∨ 5 < n := by omega
    · rw [if_neg (by omega)] at ih ⊢
      omega
    · rw [spanWord_five]
      exact ih
    · rw [if_pos (by omega)] at ih ⊢
      omega

/-- Settles O36: at most 29 word16s of `CKSUM` are not zero, so one pass leaves at most 0xFFFF + 28, and a second at
most 0xFFFF. -/
theorem sumBoundAndTwoPasses : Obligations.SumBoundAndTwoPasses := by
  refine ⟨sum16_le, fun b h h5 => ?_⟩
  have bound : spanSum b (2 * h.toNat) ≤ (2 * h.toNat - 1) * 0xFFFF := by
    simpa only [if_pos (show 5 < 2 * h.toNat by omega)] using spanSum_le b (2 * h.toNat)
  generalize spanSum b (2 * h.toNat) = S at bound ⊢
  have two : foldPass (foldPass S) ≤ 0xFFFF := by
    have := h.isLt
    unfold foldPass
    omega
  refine ⟨bound, two, fun wide => ?_⟩
  rw [fold16_of_wide wide]
  obtain fits | wide' : foldPass S ≤ 0xFFFF ∨ 0xFFFF < foldPass S := by omega
  · exact .inl (fold16_of_le fits)
  · exact .inr ((fold16_of_wide wide').trans (fold16_of_le two))

/-! ### The end-around-carry adder (R144) -/

/-- Adding with the end-around carry is one pass over the sum (R144). -/
theorem eacAdd_eq_foldPass (a b : Nat) : eacAdd a b = foldPass (a + b) := Nat.add_comm _ _

/-- On 16-bit values one pass is the whole fold. -/
theorem eacAdd_eq_fold16 {a b : Nat} (ha : a ≤ 0xFFFF) (hb : b ≤ 0xFFFF) : eacAdd a b = fold16 (a + b) := by
  have one : eacAdd a b ≤ 0xFFFF := by unfold eacAdd; omega
  rw [← fold16_of_le one, eacAdd_eq_foldPass]
  exact fold16_congr (foldPass_mod _) (by unfold foldPass; omega)

/-- A summand may be folded before it is added. -/
theorem fold16_fold16_add (S T : Nat) : fold16 (fold16 S + T) = fold16 (S + T) := by
  have mod := fold16_mod S
  have zero := fold16_eq_zero (S := S)
  exact fold16_congr (by omega) (by omega)

/-- The adder's run from an accumulator that fits: the wide sum folded (R144). -/
theorem foldl_eacAdd (w : List Word16) {acc : Nat} (h : acc ≤ 0xFFFF) :
    w.foldl (fun acc x => eacAdd acc x.toNat) acc = fold16 (acc + sum16 w) := by
  induction w generalizing acc with
  | nil => exact (fold16_of_le h).symm
  | cons x xs ih =>
    have hx : x.toNat ≤ 0xFFFF := by have := x.isLt; omega
    rw [List.foldl_cons, eacAdd_eq_fold16 h hx, ih (fold16_le _), fold16_fold16_add, sum16, Nat.add_assoc]

/-- Settles O37: on 16-bit values the adder is the fold of the sum, and folding early or late is the same. -/
theorem endAroundCarryEqualsWideSum : Obligations.EndAroundCarryEqualsWideSum := by
  refine ⟨fun w => ?_, fun a b => ?_, fun a b c ha hb hc => ?_⟩
  · rw [eac, foldl_eacAdd w (Nat.zero_le _), Nat.zero_add]
  · rw [eacAdd_eq_foldPass, eacAdd_eq_foldPass, Nat.add_comm]
  · rw [eacAdd_eq_fold16 ha hb, eacAdd_eq_fold16 hb hc, eacAdd_eq_fold16 (fold16_le _) hc,
      eacAdd_eq_fold16 ha (fold16_le _), fold16_fold16_add, Nat.add_comm a (fold16 _), fold16_fold16_add,
      Nat.add_comm (b + c), Nat.add_assoc]

/-! ### What a changed word16 does to the sum (R158) -/

theorem toNat_word16_zero : (0 : Word16).toNat = 0 := rfl

theorem toNat_word16_ones : (0xFFFF : Word16).toNat = 0xFFFF := rfl

/-- One word16 of a sequence and the sum of the others. -/
theorem sum16_append_cons (before after : List Word16) (w : Word16) :
    sum16 (before ++ w :: after) = sum16 (before ++ after) + w.toNat := by
  rw [sum16_append, sum16_append, sum16]
  omega

/-- The sum does not depend on the order of the word16s (R158). -/
theorem sum16_perm {w v : List Word16} (h : w.Perm v) : sum16 w = sum16 v := by
  induction h with
  | nil => rfl
  | cons x _ ih => rw [sum16, sum16, ih]
  | swap x y l => simp only [sum16]; omega
  | trans _ _ ih₁ ih₂ => exact ih₁.trans ih₂

/-- Settles O38: the fold sees the sum modulo 0xFFFF, where 0x0000 and 0xFFFF are one value. -/
theorem checksumSensitivity : Obligations.ChecksumSensitivity := by
  refine ⟨fun before after w v x hv => ?_, fun w v h => by rw [sum16_perm h], fun before after pos => ?_⟩
  · rw [fold16_mod, Nat.add_mod, fold16_mod, ← Nat.add_mod, sum16_append_cons, sum16_append_cons, hv, Nat.add_assoc]
  · simp only [sum16_append_cons, toNat_word16_zero, toNat_word16_ones] at pos ⊢
    exact fold16_congr (by omega) (by omega)

/-! ### The checksum of a span (R143, R146, R148) -/

/-- What a buffer reads as with its checksum field zero, whether the field exists or not. -/
theorem Buffer.read8_write16_checksum_zero (b : Buffer) (i : Nat) :
    (b.write16 10 0).read8 i = if i = 10 ∨ i = 11 then 0 else b.read8 i := by
  split
  next field =>
    rw [Buffer.read8, Buffer.write16, Buffer.octet?_writeAll]
    obtain rfl | rfl := field <;> cases b.octet? _ <;> rfl
  next other => exact Buffer.read8_congr (b.octet?_write16_of_outside 0 (by omega))

/-- `CKSUM`'s loop sums the word16s of the span with the checksum field as zero (R146, R148). -/
theorem sum16_words16_octetsZeroed (b : Buffer) (n : Nat) :
    sum16 (words16 (b.octetsZeroed (2 * n))) = spanSum b n := by
  have zeroed : b.octetsZeroed (2 * n) = (b.write16 10 0).octets (2 * n) :=
    List.map_congr_left fun i _ => (b.read8_write16_checksum_zero i).symm
  have field : (b.write16 10 0).read16 10 = 0 := by
    rw [Buffer.read16, b.read8_write16_checksum_zero, b.read8_write16_checksum_zero, if_pos (by decide),
      if_pos (by decide)]
    exact cat8_zero
  rw [zeroed, sum16_words16_octets, spanSum_write16_checksum, field]
  simp

/-- What `CKSUM h` sums: the word16s of its `4h` octets with the checksum field as zero. -/
theorem State.sum16_span (s : State) (h : BitVec 4) :
    sum16 (words16 (s.buf.octetsZeroed (4 * h.toNat))) = spanSum s.buf (2 * h.toNat) := by
  rw [← sum16_words16_octetsZeroed, ← Nat.mul_assoc]

/-- The checksum of two blocks that agree on the span but for its octets 10 and 11 (R148, R153). -/
theorem State.checksum_congr {s u : State} {h : BitVec 4}
    (span : ∀ a, a < 4 * h.toNat → a ≠ 10 → a ≠ 11 → u.buf.octet? a = s.buf.octet? a) :
    u.checksum h = s.checksum h := by
  rw [State.checksum, State.checksum, spanSum_congr _ fun a ha => span a (by omega)]

/-- The octets `CKSUM` does not write (R146). -/
theorem State.octet?_sealed_of_ne (s : State) (h : BitVec 4) {a : Nat} (h₁₀ : a ≠ 10) (h₁₁ : a ≠ 11) :
    (s.sealed h).buf.octet? a = s.buf.octet? a :=
  s.buf.octet?_write16_of_outside _ (by omega)

/-- An existing octet that the list names is the value named. -/
theorem Buffer.octet?_writeAll_of_some {b : Buffer} {w : List (Nat × Octet)} {j : Nat} {v : Octet}
    (hj : (b.octet? j).isSome = true) (h : Buffer.octet? w j = some v) : (b.writeAll w).octet? j = some v := by
  obtain ⟨x, hx⟩ := Option.isSome_iff_exists.mp hj
  simp [Buffer.octet?_writeAll, hx, h]

/-- Writing what a write has just written changes nothing. -/
theorem Buffer.writeAll_writeAll_self (b : Buffer) (w : List (Nat × Octet)) :
    (b.writeAll w).writeAll w = b.writeAll w := by
  rw [Buffer.writeAll, Buffer.writeAll, List.map_map]
  refine List.map_congr_left fun c _ => ?_
  cases h : Buffer.octet? w c.1 <;> simp [h]

/-! ### When a checksum is 0x0000 and when 0xFFFF (R149) -/

theorem complement16_eq_zero {S : Nat} : complement16 S = 0 ↔ fold16 S = 0xFFFF := by
  have le := fold16_le S
  rw [← BitVec.toNat_inj, toNat_complement16, toNat_word16_zero]
  omega

theorem complement16_eq_ones {S : Nat} : complement16 S = 0xFFFF ↔ S = 0 := by
  have le := fold16_le S
  rw [← BitVec.toNat_inj, toNat_complement16, toNat_word16_ones, ← fold16_eq_zero]
  omega

theorem toNat_cat8_eq_zero {x y : Octet} : (cat8 x y).toNat = 0 ↔ x = 0 ∧ y = 0 := by
  simp [← BitVec.toNat_inj]

/-- A turn of the loop adds nothing exactly when its octets are zero or the checksum field. -/
theorem spanWord_eq_zero {b : Buffer} {k : Nat} :
    spanWord b k = 0 ↔ ∀ a, 2 * k ≤ a → a < 2 * (k + 1) → a ≠ 10 → a ≠ 11 → b.read8 a = 0 := by
  unfold spanWord
  split
  next field => exact iff_of_true rfl fun a _ _ _ _ => by omega
  next other =>
    rw [Buffer.read16, toNat_cat8_eq_zero]
    constructor
    · rintro ⟨high, low⟩ a ge lt - -
      obtain rfl | rfl : a = 2 * k ∨ a = 2 * k + 1 := by omega
      · exact high
      · exact low
    · exact fun all => ⟨all _ (by omega) (by omega) (by omega) (by omega),
        all _ (by omega) (by omega) (by omega) (by omega)⟩

/-- The sum is zero exactly when every summed octet is (R149). -/
theorem spanSum_eq_zero {b : Buffer} {n : Nat} :
    spanSum b n = 0 ↔ ∀ a, a < 2 * n → a ≠ 10 → a ≠ 11 → b.read8 a = 0 := by
  induction n with
  | zero => simp [spanSum]
  | succ n ih =>
    rw [spanSum, Nat.add_eq_zero_iff, ih, spanWord_eq_zero]
    constructor
    · rintro ⟨below, turn⟩ a ha
      obtain lt | ge := Nat.lt_or_ge a (2 * n)
      · exact below a lt
      · exact turn a ge ha
    · exact fun all => ⟨fun a ha => all a (by omega), fun a _ ha => all a ha⟩

/-! ### `CKSUM` as a transaction (R146, R147) -/

/-- Settles O29: the checks of `h` and of the span fail in that order, and taking the fault in an unfaulted block
latches its code and nothing else. -/
theorem cksumFaults : Obligations.CksumFaults := by
  intro s h ok
  have fault {c : FaultCode} (check : s.checkCksum h = some c) : exec (.cksum h) s = .next (s.raise c) := by
    rw [exec, execCksum, check, State.performWrite_some ok]
  have raise (c : FaultCode) : s.raise c = { s with err := c.code, responses := s.responses ++ [⟨false, 0⟩] } := by
    rw [State.raise, ok, latchErr_zero]
    rfl
  refine ⟨fun short => ?_, fun h5 past => ?_⟩
  · exact (fault (if_pos short)).trans (congrArg _ (raise .badHeaderLength))
  · exact (fault ((if_neg (by omega)).trans (if_pos past))).trans (congrArg _ (raise .bufferTooSmall))

/-- Settles O28: the loop's sum is the sum of the zeroed span, and the write of the checksum field is the only one. -/
theorem cksumStoresTheChecksum : Obligations.CksumStoresTheChecksum := by
  intro s h ok wf h5 hl
  have octet (j : Nat) (hj : j < 12) : (s.buf.octet? j).isSome = true :=
    (Memory.wf.isSome_iff wf j).mpr (by omega)
  refine ⟨_, s.checksum h, exec_cksum_of_fits ok h5 hl, ?_, ⟨rfl, rfl, rfl⟩, rfl,
    Buffer.octet?_writeAll_of_some (octet 10 (by decide)) rfl,
    Buffer.octet?_writeAll_of_some (octet 11 (by decide)) rfl,
    fun a => s.octet?_sealed_of_ne h, rfl, rfl, rfl⟩
  rw [ocsum16, State.sum16_span, State.checksum]

/-- Settles O31: both blocks answer with the checksum of the one span. -/
theorem cksumDependsOnTheSpanOnly : Obligations.CksumDependsOnTheSpanOnly := by
  intro s₁ s₂ t₁ t₂ h ok₁ ok₂ h5 hl₁ hl₂ span e₁ e₂
  rw [exec_cksum_of_fits ok₁ h5 hl₁] at e₁
  rw [exec_cksum_of_fits ok₂ h5 hl₂] at e₂
  cases e₁
  cases e₂
  exact State.checksum_congr span

/-- Settles O30: the first `CKSUM` writes octets 10 and 11 only, on which the second's checksum does not depend. -/
theorem cksumIsIdempotent : Obligations.CksumIsIdempotent := by
  intro s t u v h ok₁ ok₂ wf h5 hl len e₁ span e₂
  rw [exec_cksum_of_fits ok₁ h5 hl] at e₁
  rw [exec_cksum_of_fits ok₂ h5 (by rw [len]; exact hl)] at e₂
  cases e₁
  cases e₂
  have same : u.checksum h = s.checksum h :=
    State.checksum_congr fun a ha h₁₀ h₁₁ => (span a ha h₁₀ h₁₁).trans (s.octet?_sealed_of_ne h h₁₀ h₁₁)
  refine ⟨same, by simp [same], fun untouched => ?_⟩
  simp only [State.respond_buf, State.sealed_buf] at untouched ⊢
  rw [same, untouched]
  exact Buffer.writeAll_writeAll_self _ _

/-- Settles O32: the stored checksum is the complement of the folded sum of the other word16s. -/
theorem checksumVerifies : Obligations.ChecksumVerifies := by
  intro s h ok wf h5 hl
  exact ⟨_, exec_cksum_of_fits ok h5 hl, by simpa only [State.respond_buf] using State.fold16_sealed wf h5 hl⟩

/-- Settles O33: the complement is 0 for a fold of 0xFFFF and 0xFFFF for a sum of 0, which only zero octets have. -/
theorem specialChecksumsStandAsComputed : Obligations.SpecialChecksumsStandAsComputed := by
  intro s h ok wf h5 hl
  have octet (a : Nat) (ha : a < 4 * h.toNat) : (s.buf.octet? a).isSome = true :=
    (Memory.wf.isSome_iff wf a).mpr (by omega)
  have zero (a : Nat) (ha : a < 4 * h.toNat) : s.buf.octet? a = some 0 ↔ s.buf.read8 a = 0 := by
    obtain ⟨x, hx⟩ := Option.isSome_iff_exists.mp (octet a ha)
    simp [Buffer.read8, hx]
  refine ⟨_, exec_cksum_of_fits ok h5 hl, ?_, ?_, ?_, rfl⟩
  · rw [State.sum16_span, State.respond_csum, State.sealed_csum, State.checksum, complement16_eq_zero]
  · rw [State.respond_csum, State.sealed_csum, State.checksum, complement16_eq_ones, spanSum_eq_zero, ← Nat.mul_assoc]
    exact forall₂_congr fun a ha => forall₂_congr fun _ _ => (zero a ha).symm
  · exact Buffer.read16_write16_self _ (octet 10 (by omega)) (octet 11 (by omega))

end Sys2Proof.Machine
end

section
/-! PROOFS. Host access: the step on a transaction, and what each register access, status read, load and store does
in every state. -/

namespace Sys2Proof.Machine

/-! ### Faults and refusals (R216 to R219) -/

/-- A fault in an unfaulted block latches its own code (R216). -/
theorem State.raise_of_unfaulted {s : State} (ok : s.err = 0) (c : FaultCode) :
    s.raise c = { s with err := c.code, responses := s.responses ++ [⟨false, 0⟩] } := by
  rw [State.raise, ok, latchErr_zero]
  rfl

/-- In a faulted block a fault leaves what a refusal leaves: the first code stays (R218, R219). -/
theorem State.raise_of_faulted {s : State} (faulted : s.err ≠ 0) (c : FaultCode) : s.raise c = s.refuseWrite := by
  rw [State.raise, latchErr_of_ne_zero faulted]
  rfl

/-- A write operation is refused in a faulted block (R219). -/
theorem exec_write_of_faulted {i : Instr} {s : State} (hw : i.isRead = false) (faulted : s.err ≠ 0) :
    exec i s = .next s.refuseWrite := by
  obtain ⟨t, e, cases⟩ := exec_cases i s
  rcases cases with ⟨-, -, rfl⟩ | ⟨hr | ok, -⟩ | ⟨hr, -⟩ | ⟨-, ok, -⟩
  · exact e
  · exact absurd (hr.symm.trans hw) (by decide)
  · exact absurd ok faulted
  · exact absurd (hr.symm.trans hw) (by decide)
  · exact absurd ok faulted

/-- An operation that is not refused takes the fault of a check that fails (R170, R221). -/
theorem exec_of_opCheck_some {i : Instr} {s : State} {c : FaultCode} (check : opCheck s i = some c)
    (performed : i.isRead = true ∨ s.err = 0) : exec i s = .next (s.raise c) := by
  obtain ⟨t, e, cases⟩ := exec_cases i s
  rcases cases with ⟨hw, faulted, -⟩ | ⟨-, c', check', rfl⟩ | ⟨-, passed, -⟩ | ⟨-, -, passed, -⟩
  · rcases performed with hr | ok
    · exact absurd (hr.symm.trans hw) (by decide)
    · exact absurd ok faulted
  · obtain rfl : c = c' := Option.some.inj (check.symm.trans check')
    exact e
  · exact absurd (check.symm.trans passed) (Option.some_ne_none c)
  · exact absurd (check.symm.trans passed) (Option.some_ne_none c)

/-! ### The step on a transaction (R170) -/

/-- Settles O5: a word that decodes to an operation decodes to no fault and to no other operation. -/
theorem stepRunsTheDecodedInstruction : Obligations.StepRunsTheDecodedInstruction := by
  intro s T rest i hs hd
  rcases step_transaction_cases hs with ⟨j, hd', e⟩ | ⟨c, hd', -⟩ <;> rw [hd] at hd' <;> cases hd'
  exact e

/-- A decode fault leaves what taking the fault leaves, for a refused write too (R216, R218, R219). -/
theorem State.decodeFault_eq_raise (s : State) (dir : Dir) (c : DecodeFault) :
    s.decodeFault dir c = s.raise (FaultCode.ofDecode c) := by
  rcases s.decodeFault_cases dir c with ⟨-, faulted, e⟩ | ⟨-, e⟩
  · rw [e, State.raise_of_faulted faulted]
  · exact e

/-- Settles O6: the step is the decode fault, which is the fault taken, with the code of either kind. -/
theorem stepTakesTheDecodeFault : Obligations.StepTakesTheDecodeFault := by
  intro s T rest c hs hd
  rcases step_transaction_cases hs with ⟨i, hd', -⟩ | ⟨c', hd', e⟩ <;> rw [hd] at hd' <;> cases hd'
  rw [e, State.decodeFault_eq_raise]
  cases c <;> rfl

/-! ### Field registers and status reads (R171 to R191) -/

theorem opCheck_wrf (s : State) (f : Field) (v : Word32) : opCheck s (.wrf f v) = checkField f v := by cases f <;> rfl

/-- In an unfaulted block `WRF` of a value up to the register's greatest stores it (R171). -/
theorem exec_wrf_of_le {s : State} {f : Field} {v : Word32} {m : Nat} (ok : s.err = 0) (hm : m + 1 = 2 ^ fieldWidth f)
    (h : v.toNat ≤ m) : exec (.wrf f v) s =
      .next { s with fields := s.fields.write f v, responses := s.responses ++ [⟨true, 0⟩] } := by
  rw [exec_wrf, State.writeField_of_fits ok (by omega)]
  rfl

/-- In an unfaulted block `WRF` of a value above the register's greatest latches `FieldRange` (R171, R215). -/
theorem exec_wrf_of_gt {s : State} {f : Field} {v : Word32} {m : Nat} (ok : s.err = 0) (hm : m + 1 = 2 ^ fieldWidth f)
    (h : m < v.toNat) : exec (.wrf f v) s = .next { s with err := 5, responses := s.responses ++ [⟨false, 0⟩] } := by
  have check : opCheck s (.wrf f v) = some .fieldRange := (opCheck_wrf s f v).trans (if_neg (by omega))
  rw [exec_of_opCheck_some check (.inr ok), State.raise_of_unfaulted ok]
  rfl

/-- Settles O39: the six narrow registers each store up to their greatest value and fault above it; every word32 fits
`F.SRC` and `F.DST`. -/
theorem wrfStoresOrFaults : Obligations.WrfStoresOrFaults := by
  intro s v
  refine ⟨fun ok => ?_, fun faulted f => exec_write_of_faulted (Instr.isRead_wrf f v) faulted⟩
  have all : v.toNat ≤ 0xFFFFFFFF := Nat.le_of_lt_succ v.isLt
  exact ⟨exec_wrf_of_le (f := .ver) ok rfl, exec_wrf_of_gt (f := .ver) ok rfl,
    exec_wrf_of_le (f := .ihl) ok rfl, exec_wrf_of_gt (f := .ihl) ok rfl,
    exec_wrf_of_le (f := .tlen) ok rfl, exec_wrf_of_gt (f := .tlen) ok rfl,
    exec_wrf_of_le (f := .id) ok rfl, exec_wrf_of_gt (f := .id) ok rfl,
    exec_wrf_of_le (f := .ttl) ok rfl, exec_wrf_of_gt (f := .ttl) ok rfl,
    exec_wrf_of_le (f := .proto) ok rfl, exec_wrf_of_gt (f := .proto) ok rfl,
    exec_wrf_of_le (f := .src) ok rfl all, exec_wrf_of_le (f := .dst) ok rfl all⟩

/-- The bits of a zero-extended value above its width are 0 (R96). -/
theorem toNat_zeroExtend_lt {w : Nat} (x : BitVec w) : (x.zeroExtend 32).toNat < 2 ^ w := by
  rw [BitVec.toNat_setWidth]
  exact (Nat.mod_le _ _).trans_lt x.isLt

/-- Settles O41: the word the spec prints is the encoding of `RDF`, which answers with the register in every state. -/
theorem rdfReturnsTheRegister : Obligations.RdfReturnsTheRegister := by
  intro s
  have word (f : Field) : decode (encode (.rdf f)) = .op (.rdf f) := decodeOfEncode _ (Instr.wf_rdf f)
  exact ⟨word .ver, exec_rdf .ver s, toNat_zeroExtend_lt _, word .ihl, exec_rdf .ihl s, toNat_zeroExtend_lt _,
    word .tlen, exec_rdf .tlen s, toNat_zeroExtend_lt _, word .id, exec_rdf .id s, toNat_zeroExtend_lt _,
    word .ttl, exec_rdf .ttl s, toNat_zeroExtend_lt _, word .proto, exec_rdf .proto s, toNat_zeroExtend_lt _,
    word .src, exec_rdf .src s, word .dst, exec_rdf .dst s⟩

/-- Settles O42: a status read makes no check, so it answers in every state. -/
theorem statusReadsReturnTheirRegisters : Obligations.StatusReadsReturnTheirRegisters :=
  fun _ => ⟨rfl, rfl, rfl⟩

/-! ### The octets of loads and stores (R53, R55) -/

/-- An octet that exists reads as what it holds. -/
theorem Buffer.read8_of_octet? {b : Buffer} {j : Nat} {x : Octet} (h : b.octet? j = some x) : b.read8 j = x := by
  rw [Buffer.read8, h, Option.getD_some]

/-- An octet that exists holds what it reads as. -/
theorem Buffer.octet?_eq_some_read8 {b : Buffer} {j : Nat} (h : (b.octet? j).isSome = true) :
    b.octet? j = some (b.read8 j) := by
  obtain ⟨x, hx⟩ := Option.isSome_iff_exists.mp h
  rw [Buffer.read8_of_octet? hx, hx]

/-- Four octets that exist read as one word32, the most significant first (R53, R55). -/
theorem Buffer.read32_of_octet? {b : Buffer} {i : Nat} {x₀ x₁ x₂ x₃ : Octet} (h₀ : b.octet? i = some x₀)
    (h₁ : b.octet? (i + 1) = some x₁) (h₂ : b.octet? (i + 2) = some x₂) (h₃ : b.octet? (i + 3) = some x₃) :
    b.read32 i = BitVec.ofNat 32 (x₀.toNat * 2 ^ 24 + x₁.toNat * 2 ^ 16 + x₂.toNat * 2 ^ 8 + x₃.toNat) := by
  rw [Buffer.read32, Buffer.read16, Buffer.read16, Buffer.read8_of_octet? h₀, Buffer.read8_of_octet? h₁,
    Buffer.read8_of_octet? h₂, Buffer.read8_of_octet? h₃, cat16_cat8_eq_ofNat]

/-- The octet written holds the value written (R193). -/
theorem Buffer.octet?_write8_self {b : Buffer} {i : Nat} (v : Octet) (h : (b.octet? i).isSome = true) :
    (b.write8 i v).octet? i = some v := by
  rw [Buffer.octet?_eq_some_read8 ((b.isSome_octet?_write8 i v i).trans h), Buffer.read8_write8_self v h]

/-- Octet `k` of a word32 written holds octet `k` of its value, the most significant first (R195). -/
theorem Buffer.octet?_write32 {b : Buffer} {i k : Nat} (v : Word32) (hk : k < 4)
    (h : (b.octet? (i + k)).isSome = true) : (b.write32 i v).octet? (i + k) = some (v.extractLsb' (24 - 8 * k) 8) := by
  have octet : ((b.write32 i v).octet? (i + k)).isSome = true := (b.isSome_octet?_writeAll _ (i + k)).trans h
  rw [Buffer.octet?_eq_some_read8 octet, Buffer.read8_write32 v hk h]

/-! ### Loads and stores (R192 to R195) -/

/-- An octet access outside `BUF` fails its check (R192, R193). -/
theorem State.checkOctet_of_ge {s : State} {i : BufIndex} (h : s.bufLen.val ≤ i.toNat) :
    s.checkOctet i = some .accessFault := if_neg (Nat.not_lt.mpr h)

/-- A word32 access at a misaligned index or past the end of `BUF` fails its check (R194, R195). -/
theorem State.checkWord_of_not_fits {s : State} {i : BufIndex} (h : i.toNat % 4 ≠ 0 ∨ s.bufLen.val < i.toNat + 4) :
    s.checkWord i = some .accessFault := by
  refine if_neg fun ⟨aligned, inside⟩ => ?_
  have : i.toNat % 4 = 0 := by simpa [aligned4] using aligned
  omega

/-- Settles O43: the octet that exists is the one read, and a read takes its fault in a faulted block too. -/
theorem ldbReturnsTheOctet : Obligations.LdbReturnsTheOctet := by
  intro s i
  refine ⟨fun x hi hx => ?_, fun hi => ?_⟩
  · rw [exec_ldb_of_lt hi, Buffer.read8_of_octet? hx]
    rfl
  · exact exec_of_opCheck_some (i := .ldb i) (State.checkOctet_of_ge hi) (.inl rfl)

/-- Settles O44: the four octets that exist are the ones read, and a read takes its fault in a faulted block too. -/
theorem ldwReturnsFourOctets : Obligations.LdwReturnsFourOctets := by
  intro s i
  refine ⟨fun x₀ x₁ x₂ x₃ ha hi h₀ h₁ h₂ h₃ => ?_, fun outside => ?_⟩
  · rw [exec_ldw_of_fits ha hi, Buffer.read32_of_octet? h₀ h₁ h₂ h₃]
    rfl
  · exact exec_of_opCheck_some (i := .ldw i) (State.checkWord_of_not_fits outside) (.inl rfl)

/-- Settles O45: the store writes the octet at its own index and no other; the check and the refusal write nothing. -/
theorem stbStoresOneOctet : Obligations.StbStoresOneOctet := by
  intro s i v
  refine ⟨fun ok wf hi => ?_, fun ok hi => ?_, exec_write_of_faulted rfl⟩
  · exact ⟨_, exec_stb_of_lt v ok hi, ⟨rfl, rfl, rfl⟩,
      Buffer.octet?_write8_self v ((Memory.wf.isSome_iff wf _).mpr hi),
      fun a => s.buf.octet?_write8_of_ne v, rfl, rfl, rfl, rfl⟩
  · rw [exec_of_opCheck_some (i := .stb i v) (State.checkOctet_of_ge hi) (.inr ok), State.raise_of_unfaulted ok]
    rfl

/-- Settles O46: the store writes the four octets at its own index and no other; the check and the refusal write
nothing. -/
theorem stwStoresFourOctets : Obligations.StwStoresFourOctets := by
  intro s i v
  refine ⟨fun ok wf ha hi => ?_, fun ok outside => ?_, exec_write_of_faulted rfl⟩
  · exact ⟨_, exec_stw_of_fits v ok ha hi, ⟨rfl, rfl, rfl⟩,
      fun k hk => Buffer.octet?_write32 v hk ((Memory.wf.isSome_iff wf _).mpr (by omega)),
      fun a => s.buf.octet?_write32_of_outside v, rfl, rfl, rfl, rfl⟩
  · rw [exec_of_opCheck_some (i := .stw i v) (State.checkWord_of_not_fits outside) (.inr ok),
      State.raise_of_unfaulted ok]
    rfl

end Sys2Proof.Machine
end

section
/-! PROOFS. Faults: what a transaction that is not `ok` leaves behind, the block once faulted, and which transactions
raise which fault. -/

namespace Sys2Proof.Machine

/-! ### What an answer says of the block (R217, R229, R230) -/

/-- Settles O7. -/
theorem idleBlockHoldsItsState : Obligations.IdleBlockHoldsItsState := by
  intro s idle
  rcases step_cases s with ⟨-, e⟩ | ⟨_, hs, -⟩ | ⟨_, _, _, hs, -⟩ | ⟨_, _, _, hs, -⟩
  · exact e
  all_goals cases idle.symm.trans hs

/-- Everything a transaction can do, by its answer: one that fails leaves the data of the block alone and the block
faulted; one that is `ok` leaves `STATUS.ERR` alone (R217, R230). -/
theorem step_transaction_answer {s : State} {T : TransactionWord} {rest : List HostEvent}
    (hs : s.script = .transaction T :: rest) : Completes (step s) fun t =>
      (SameData s t ∧ t.err ≠ 0 ∧ t.responses = s.responses ++ [⟨false, 0⟩]) ∨
      (t.err = s.err ∧ ∃ v, t.responses = s.responses ++ [⟨true, v⟩]) := by
  rcases step_transaction_cases hs with ⟨i, -, e⟩ | ⟨c, -, e⟩
  · obtain ⟨t, e', cases⟩ := exec_cases i { s with script := rest }
    refine ⟨t, e.trans e', ?_⟩
    rcases cases with ⟨-, faulted, rfl⟩ | ⟨-, c, -, rfl⟩ | ⟨-, -, v, rfl⟩ | ⟨-, -, -, r, w, c, v, rfl⟩
    · exact .inl ⟨⟨rfl, rfl, rfl, rfl⟩, faulted, rfl⟩
    · exact .inl ⟨⟨rfl, rfl, rfl, rfl⟩, latchErr_ne_zero s.err c, rfl⟩
    · exact .inr ⟨rfl, v, rfl⟩
    · exact .inr ⟨rfl, v, rfl⟩
  · rw [State.decodeFault_eq_raise] at e
    exact ⟨_, e, .inl ⟨⟨rfl, rfl, rfl, rfl⟩, latchErr_ne_zero s.err _, rfl⟩⟩

/-- Settles O14: the two clauses are the two answers; the consequence is the invariant after the step. -/
theorem okTellsWhetherErrChanged : Obligations.OkTellsWhetherErrChanged := by
  intro s T rest hs
  obtain ⟨t, e, answer⟩ := step_transaction_answer hs
  have allOk (inv : s.Inv) : (∀ q ∈ t.responses, q.ok = true) → t.err = 0 := by
    obtain ⟨-, -, errZero, -⟩ := everyStepKeepsTheInvariant s t inv e
    exact errZero.mpr
  refine ⟨t, e, ?_⟩
  rcases answer with ⟨-, faulted, responses⟩ | ⟨err, v, responses⟩
  · exact ⟨⟨false, 0⟩, responses, fun _ => ⟨faulted, rfl⟩, nofun, allOk⟩
  · exact ⟨⟨true, v⟩, responses, nofun, fun _ => err, allOk⟩

/-- Settles O15: of the two answers only the one that is `ok` comes with an effect. -/
theorem faultsArePrecise : Obligations.FaultsArePrecise := by
  intro s T rest hs
  obtain ⟨t, e, ⟨same, -⟩ | ⟨-, v, responses⟩⟩ := step_transaction_answer hs
  · exact ⟨t, e, fun _ _ _ => same⟩
  · refine ⟨t, e, fun r hr failed => ?_⟩
    obtain rfl : ⟨true, v⟩ = r := by simpa [responses] using hr
    cases failed

/-! ### The faulted block (R219) -/

/-- What a read operation whose check passes answers with (R180, R189 to R192, R194). -/
def readValue (s : State) : Instr → Word32
  | .rdfVer => s.fields.read .ver
  | .rdfIhl => s.fields.read .ihl
  | .rdfTlen => s.fields.read .tlen
  | .rdfId => s.fields.read .id
  | .rdfTtl => s.fields.read .ttl
  | .rdfProto => s.fields.read .proto
  | .rdfSrc => s.fields.read .src
  | .rdfDst => s.fields.read .dst
  | .rdstatus => statusWord s.err
  | .rdcsum => s.csum.zeroExtend 32
  | .rdbuflen => BitVec.ofNat 32 s.bufLen.val
  | .ldb i => (s.buf.read8 i.toNat).zeroExtend 32
  | .ldw i => s.buf.read32 i.toNat
  | _ => 0

/-- A read operation makes its check and answers with its value, faulted or not (R170). -/
theorem exec_read {i : Instr} (hr : i.isRead = true) (s : State) :
    exec i s = .next (s.performRead (opCheck s i) (readValue s i)) := by
  cases i <;> cases hr <;> rfl

/-- The check of an operation looks at its operands and at `BUF_LEN` only (R221). -/
theorem opCheck_congr {s u : State} (h : u.bufLen = s.bufLen) (i : Instr) : opCheck u i = opCheck s i := by
  cases i <;> simp only [opCheck, State.checkPack, State.checkCksum, State.checkOctet, State.checkWord, h]

/-- Only `RDSTATUS` reads `STATUS.ERR`. -/
theorem readValue_err {i : Instr} (hi : i ≠ .rdstatus) (s : State) (e : BitVec 3) :
    readValue { s with err := e } i = readValue s i := by
  cases i
  case rdstatus => exact absurd rfl hi
  all_goals rfl

/-- A read other than `RDSTATUS` answers the same whatever `STATUS.ERR` holds (R219). -/
theorem exec_read_responses_err {i : Instr} (hr : i.isRead = true) (hi : i ≠ .rdstatus) (s : State) (x : BitVec 3) :
    Completes (exec i { s with err := x }) fun u =>
      (s.performRead (opCheck s i) (readValue s i)).responses = u.responses := by
  have check : opCheck { s with err := x } i = opCheck s i := opCheck_congr rfl i
  refine ⟨_, exec_read hr _, ?_⟩
  rw [check, readValue_err hi s x]
  cases opCheck s i <;> rfl

/-- A read of a faulted block changes no component of it (R219). -/
theorem State.performRead_sameBlock {s : State} (faulted : s.err ≠ 0) (check : Option FaultCode) (value : Word32) :
    SameBlock s (s.performRead check value) := by
  cases check with
  | none => exact ⟨⟨rfl, rfl, rfl, rfl⟩, rfl⟩
  | some c => exact ⟨⟨rfl, rfl, rfl, rfl⟩, latchErr_of_ne_zero faulted c⟩

/-- Settles O13: a write operation is refused, a read operation answers with its check and its value, neither of which
looks at `STATUS.ERR` but for `RDSTATUS`, and a decode fault finds the first code latched. -/
theorem faultedBlockIsFrozen : Obligations.FaultedBlockIsFrozen := by
  intro s T rest faulted hs
  rcases step_transaction_cases hs with ⟨i, hd, e⟩ | ⟨c, hd, e⟩
  · have direction := isRead_of_decode hd
    cases hr : i.isRead with
    | false =>
      have write : (splitWord T).dir ≠ .read := by simpa [hr] using direction
      refine ⟨_, e.trans (exec_write_of_faulted hr faulted), ⟨⟨rfl, rfl, rfl, rfl⟩, rfl⟩, fun _ => rfl,
        fun status => ?_, fun read => absurd read write⟩
      cases hd.symm.trans status
      cases hr
    | true =>
      have read : (splitWord T).dir = .read := by simpa [hr] using direction
      refine ⟨_, e.trans (exec_read hr _), State.performRead_sameBlock (s := { s with script := rest }) faulted _ _,
        fun write => ?_, fun status => ?_, fun _ notStatus => ?_⟩
      · cases read.symm.trans write
      · cases hd.symm.trans status
        rfl
      · have hi : i ≠ .rdstatus := fun status => notStatus (status ▸ hd)
        rw [stepRunsTheDecodedInstruction { s with err := 0 } T rest i hs hd]
        exact exec_read_responses_err hr hi { s with script := rest } 0
  · rw [State.decodeFault_eq_raise, State.raise_of_faulted (s := { s with script := rest }) faulted] at e
    refine ⟨_, e, ⟨⟨rfl, rfl, rfl, rfl⟩, rfl⟩, fun _ => rfl, fun status => ?_, fun _ _ => ?_⟩
    · cases hd.symm.trans status
    · exact ⟨_, stepTakesTheDecodeFault { s with err := 0 } T rest c hs hd, rfl⟩

end Sys2Proof.Machine

namespace Sys2Proof

/-! ### Which transactions decode to what (R88, R89) -/

/-- A transaction decodes to exactly the well-formed operation whose transaction is its canonical form (R87, R89). -/
theorem decodeTransaction_eq_op_iff {t : Transaction} {i : Instr} :
    decodeTransaction t = .op i ↔ i.wf = true ∧ t.canonical = transactionOf i := by
  refine ⟨fun h => ?_, fun ⟨wf, canonical⟩ => ?_⟩
  · obtain ⟨wf, e⟩ := transactionOf_of_decodeTransaction h
    exact ⟨wf, e.symm⟩
  · rw [← decodeTransaction_canonical, canonical, decodeTransaction_transactionOf wf]

/-- Of a word32 write every bit counts (R87). -/
theorem Transaction.canonical_eq_wordWrite {t : Transaction} {off : HostOffset} {x : Word32} :
    t.canonical = ⟨.write, .word32, off, x⟩ ↔
      t.dir = .write ∧ t.size = .word32 ∧ t.off = off ∧ t.data = x := by
  obtain ⟨d, z, o, y⟩ := t
  cases d <;> cases z <;> simp [Transaction.canonical]

theorem decodeTransaction_eq_pack {t : Transaction} : decodeTransaction t = .op .pack ↔
    t.dir = .write ∧ t.size = .word32 ∧ t.off = 0 ∧ t.data.toNat = 1 := by
  rw [decodeTransaction_eq_op_iff, transactionOf, commandTransaction, Transaction.canonical_eq_wordWrite,
    ← BitVec.toNat_inj (x := t.data)]
  simp [Instr.wf]

theorem decodeTransaction_eq_cksum {t : Transaction} {h : BitVec 4} : decodeTransaction t = .op (.cksum h) ↔
    t.dir = .write ∧ t.size = .word32 ∧ t.off = 0 ∧ t.data.toNat = 16 * h.toNat + 2 := by
  have value : (BitVec.ofNat 32 (16 * h.toNat + 2)).toNat = 16 * h.toNat + 2 := by
    rw [BitVec.toNat_ofNat]
    omega
  rw [decodeTransaction_eq_op_iff, transactionOf, commandTransaction, Transaction.canonical_eq_wordWrite,
    ← BitVec.toNat_inj (x := t.data), value]
  simp [Instr.wf]

theorem decodeTransaction_eq_wrf {t : Transaction} {f : Field} {v : Word32} :
    decodeTransaction t = .op (.wrf f v) ↔
      t.dir = .write ∧ t.size = .word32 ∧ t.off = fieldOffset f ∧ t.data = v := by
  rw [decodeTransaction_eq_op_iff, transactionOf_wrf, Transaction.canonical_eq_wordWrite]
  simp [Instr.wf_wrf]

/-- The command words of `CKSUM`: `h` is bits 7:4 of the data (R88). -/
theorem exists_decodeTransaction_eq_cksum {t : Transaction} (P : Nat → Prop) :
    (∃ h, decodeTransaction t = .op (.cksum h) ∧ P h.toNat) ↔
      t.dir = .write ∧ t.size = .word32 ∧ t.off = 0 ∧
      t.data.toNat < 256 ∧ t.data.toNat % 16 = 2 ∧ P (t.data.toNat / 16) := by
  simp only [decodeTransaction_eq_cksum]
  constructor
  · rintro ⟨h, ⟨dir, size, off, data⟩, p⟩
    have length : t.data.toNat / 16 = h.toNat := by omega
    exact ⟨dir, size, off, by omega, by omega, by rwa [length]⟩
  · rintro ⟨dir, size, off, small, op, p⟩
    have length : (BitVec.ofNat 4 (t.data.toNat / 16)).toNat = t.data.toNat / 16 := by
      rw [BitVec.toNat_ofNat]
      omega
    exact ⟨BitVec.ofNat 4 (t.data.toNat / 16), ⟨dir, size, off, by omega⟩, by rwa [length]⟩

/-- The data words that are no command word (R88, R213). -/
theorem decodeCommand_eq_illegalCommand {d : Word32} : decodeCommand d = .fault .illegalCommand ↔
    ¬ (d.toNat = 1 ∨ (d.toNat < 256 ∧ d.toNat % 16 = 2)) := by
  have hd := d.isLt
  have reserved : d.extractLsb' 8 24 = 0 ↔ d.toNat < 256 := by
    rw [← BitVec.toNat_inj, toNat_extractLsb']
    change _ = 0 ↔ _
    omega
  have length : d.extractLsb' 4 4 = 0 ↔ d.toNat / 16 % 16 = 0 := by
    rw [← BitVec.toNat_inj, toNat_extractLsb']
    rfl
  have op (k : BitVec 4) : d.extractLsb' 0 4 = k ↔ d.toNat % 16 = k.toNat := by
    rw [← BitVec.toNat_inj, toNat_extractLsb', Nat.pow_zero, Nat.div_one]
    rfl
  have one : (1 : BitVec 4).toNat = 1 := rfl
  have two : (2 : BitVec 4).toNat = 2 := rfl
  simp only [decodeCommand, ne_eq, reserved, length, op, one, two]
  split_ifs <;> simp <;> omega

/-- Where the decoder sends an access: to the buffer window, to the register window, or away as an `AccessFault`
(R51, R57, R89). -/
theorem decodeTransaction_cases (t : Transaction) :
    (0x10000 ≤ t.off.toNat ∧ decodeTransaction t = decodeBuffer t) ∨
    (t.off.toNat < 0x10000 ∧ (t.size = .octet ∨ t.off.toNat % 4 ≠ 0) ∧ decodeTransaction t = .fault .accessFault) ∨
    (t.off.toNat < 0x10000 ∧ t.size = .word32 ∧ t.off.toNat % 4 = 0 ∧ decodeTransaction t = decodeRegister t) := by
  have ho := t.off.isLt
  have window : t.off.getLsbD 16 = false ↔ t.off.toNat < 0x10000 := by
    rw [BitVec.getLsbD, Nat.testBit_eq_decide_div_mod_eq, decide_eq_false_iff_not]
    omega
  have aligned : t.off.extractLsb' 0 2 = 0 ↔ t.off.toNat % 4 = 0 := by
    rw [← BitVec.toNat_inj, toNat_extractLsb', Nat.pow_zero, Nat.div_one]
    rfl
  rw [decodeTransaction]
  simp only [window, ne_eq, aligned]
  split
  next register =>
    split
    next octet => exact .inr (.inl ⟨register, .inl octet, rfl⟩)
    next wide =>
      have word : t.size = .word32 := by
        cases hz : t.size with
        | octet => exact absurd hz wide
        | word32 => rfl
      split
      next misaligned => exact .inr (.inl ⟨register, .inr misaligned, rfl⟩)
      next multiple => exact .inr (.inr ⟨register, word, not_not.mp multiple, rfl⟩)
  next buffer => exact .inl ⟨Nat.not_lt.mp buffer, rfl⟩

/-- In the register window `IllegalCommand` comes from the command location only (R213). -/
theorem decodeRegister_eq_illegalCommand {t : Transaction} : decodeRegister t = .fault .illegalCommand ↔
    t.dir = .write ∧ t.off = 0 ∧ decodeCommand t.data = .fault .illegalCommand := by
  obtain ⟨d, z, off, x⟩ := t
  by_cases command : off = 0
  · cases d <;> simp [decodeRegister, command]
  · simp only [decodeRegister, command, false_and, and_false, iff_false, if_false]
    cases d <;> split_ifs <;> nofun

/-- No access to the buffer window is a command. -/
theorem decodeBuffer_ne_illegalCommand (t : Transaction) : decodeBuffer t ≠ .fault .illegalCommand := by
  obtain ⟨d, z, off, x⟩ := t
  cases z <;> cases d <;> dsimp only [decodeBuffer]
  case octet.read | octet.write => nofun
  case word32.read | word32.write => split <;> nofun

/-- `IllegalCommand` comes from a word32 write to the command location only (R213). -/
theorem decodeTransaction_eq_illegalCommand {t : Transaction} : decodeTransaction t = .fault .illegalCommand ↔
    t.dir = .write ∧ t.size = .word32 ∧ t.off = 0 ∧ decodeCommand t.data = .fault .illegalCommand := by
  have zero (h : t.off = 0) : t.off.toNat = 0 := by rw [h]; rfl
  rcases decodeTransaction_cases t with ⟨buffer, e⟩ | ⟨-, refused, e⟩ | ⟨-, word, -, e⟩ <;> rw [e]
  · refine iff_of_false (decodeBuffer_ne_illegalCommand t) fun ⟨_, _, off, _⟩ => ?_
    have := zero off
    omega
  · refine iff_of_false nofun fun ⟨_, size, off, _⟩ => ?_
    have := zero off
    rcases refused with octet | misaligned
    · cases octet.symm.trans size
    · omega
  · simp only [decodeRegister_eq_illegalCommand, word, true_and]

end Sys2Proof

namespace Sys2Proof.Machine

/-! ### When a check fails (R111, R147, R171, R192 to R195) -/

theorem State.checkPack_eq_some {s : State} {c : FaultCode} :
    s.checkPack = some c ↔ s.bufLen.val < 20 ∧ c = .bufferTooSmall := by
  unfold State.checkPack Config.hdrMin
  split <;> simp [*, eq_comm]

/-- `h < 5` is the first of the two tests of `CKSUM` (R221). -/
theorem State.checkCksum_eq_some {s : State} {h : BitVec 4} {c : FaultCode} :
    s.checkCksum h = some c ↔ h.toNat < 5 ∧ c = .badHeaderLength ∨
      5 ≤ h.toNat ∧ s.bufLen.val < 4 * h.toNat ∧ c = .bufferTooSmall := by
  unfold State.checkCksum
  split
  next low => simp [low, Nat.not_le.mpr low, eq_comm]
  next high =>
    split <;> simp [*, Nat.not_lt.mp high, eq_comm]

theorem checkField_eq_some {f : Field} {v : Word32} {c : FaultCode} :
    checkField f v = some c ↔ 2 ^ fieldWidth f ≤ v.toNat ∧ c = .fieldRange := by
  unfold checkField
  split
  next fits => simp [Nat.not_le.mpr fits]
  next wide => simp [Nat.not_lt.mp wide, eq_comm]

theorem State.checkOctet_eq_some {s : State} {i : BufIndex} {c : FaultCode} :
    s.checkOctet i = some c ↔ s.bufLen.val ≤ i.toNat ∧ c = .accessFault := by
  unfold State.checkOctet
  split
  next inside => simp [Nat.not_le.mpr inside]
  next outside => simp [Nat.not_lt.mp outside, eq_comm]

theorem State.checkWord_eq_some {s : State} {i : BufIndex} {c : FaultCode} :
    s.checkWord i = some c ↔ (i.toNat % 4 ≠ 0 ∨ s.bufLen.val < i.toNat + 4) ∧ c = .accessFault := by
  by_cases fits : i.toNat % 4 = 0 ∧ i.toNat + 4 ≤ s.bufLen.val
  · obtain ⟨aligned, inside⟩ := fits
    simp [State.checkWord_of_fits aligned inside, aligned, Nat.not_lt.mpr inside]
  · have bad : i.toNat % 4 ≠ 0 ∨ s.bufLen.val < i.toNat + 4 := by omega
    simp only [State.checkWord_of_not_fits bad, bad, true_and, Option.some.injEq, eq_comm]

/-! ### The fault of a transaction (R210, R221) -/

/-- A read operation raises no fault but `AccessFault` (R180, R189 to R192, R194). -/
theorem accessFault_of_opCheck_read {s : State} {i : Instr} {c : FaultCode} (hr : i.isRead = true)
    (raised : opCheck s i = some c) : c = .accessFault := by
  cases i <;> cases hr
  case ldb a => exact (State.checkOctet_eq_some.mp raised).2
  case ldw a => exact (State.checkWord_eq_some.mp raised).2
  all_goals cases raised

/-- What a decoded transaction raises in an unfaulted block: its decode fault, or the fault of its operation's check. -/
def decodedFault (s : State) : Decoded → Option FaultCode
  | .op i => opCheck s i
  | .fault c => some (FaultCode.ofDecode c)

/-- What `STATUS.ERR` of an unfaulted block is after a transaction that raises this fault, or none (R210, R216). -/
def errAfter : Option FaultCode → BitVec 3
  | none => 0
  | some c => c.code

/-- The five codes are distinct, and none is 0 (R210). -/
theorem errAfter_eq_code {x : Option FaultCode} {c : FaultCode} : errAfter x = c.code ↔ x = some c := by
  cases x with
  | none => cases c <;> simp [errAfter, FaultCode.code]
  | some d => cases d <;> cases c <;> simp [errAfter, FaultCode.code]

/-- An operation on an unfaulted block latches the fault of its check. -/
theorem exec_err_of_unfaulted {s : State} (ok : s.err = 0) (i : Instr) :
    Completes (exec i s) fun t => t.err = errAfter (opCheck s i) := by
  obtain ⟨t, e, cases⟩ := exec_cases i s
  refine ⟨t, e, ?_⟩
  rcases cases with ⟨-, faulted, -⟩ | ⟨-, c, check, rfl⟩ | ⟨-, check, v, rfl⟩ | ⟨-, -, check, r, w, c, v, rfl⟩
  · exact absurd ok faulted
  · rw [check, State.raise_err, ok, latchErr_zero, errAfter]
  · rw [check]
    exact ok
  · rw [check]
    exact ok

/-- A transaction on an unfaulted block latches the fault it raises. -/
theorem step_err_of_unfaulted {s : State} {T : TransactionWord} {rest : List HostEvent} (ok : s.err = 0)
    (hs : s.script = .transaction T :: rest) :
    Completes (step s) fun t => t.err = errAfter (decodedFault s (decode T)) := by
  rcases step_transaction_cases hs with ⟨i, hd, e⟩ | ⟨d, hd, e⟩ <;> rw [hd, e]
  · have check : opCheck { s with script := rest } i = opCheck s i := opCheck_congr rfl i
    rw [decodedFault, ← check]
    exact exec_err_of_unfaulted (s := { s with script := rest }) ok i
  · rw [State.decodeFault_eq_raise]
    exact ⟨_, rfl, congrArg (latchErr · _) ok⟩

/-- The causes of a fault are the causes of its code in `STATUS.ERR` of a block that was unfaulted (R216). -/
theorem step_latches_iff {s : State} {T : TransactionWord} {rest : List HostEvent} {c : FaultCode} {causes : Prop}
    (ok : s.err = 0) (hs : s.script = .transaction T :: rest)
    (raised_iff : decodedFault s (decodeTransaction (splitWord T)) = some c ↔ causes) :
    Completes (step s) fun t => t.err = c.code ↔ causes := by
  obtain ⟨t, e, err⟩ := step_err_of_unfaulted ok hs
  refine ⟨t, e, Iff.trans ?_ raised_iff⟩
  rw [err, errAfter_eq_code, decode]

/-- The causes of the four faults that are not `AccessFault`, by what the transaction decodes to. -/
theorem decodedFault_eq_some_iff {s : State} {D : Decoded} {c : FaultCode} (hc : c ≠ .accessFault) :
    decodedFault s D = some c ↔
      (D = .fault .illegalCommand ∧ c = .illegalCommand) ∨
      (D = .op .pack ∧ s.checkPack = some c) ∨
      (∃ h, D = .op (.cksum h) ∧ s.checkCksum h = some c) ∨
      (∃ f v, D = .op (.wrf f v) ∧ checkField f v = some c) := by
  constructor
  · intro raised
    cases D with
    | fault d =>
      cases d with
      | accessFault => exact absurd (Option.some.inj raised).symm hc
      | illegalCommand => exact .inl ⟨rfl, (Option.some.inj raised).symm⟩
    | op i =>
      rcases write_or_read i with rfl | ⟨h, rfl⟩ | ⟨f, v, rfl⟩ | ⟨a, v, rfl⟩ | ⟨a, v, rfl⟩ | hr
      · exact .inr (.inl ⟨rfl, raised⟩)
      · exact .inr (.inr (.inl ⟨h, rfl, raised⟩))
      · exact .inr (.inr (.inr ⟨f, v, rfl, (opCheck_wrf s f v).symm.trans raised⟩))
      · exact absurd (State.checkOctet_eq_some.mp raised).2 hc
      · exact absurd (State.checkWord_eq_some.mp raised).2 hc
      · exact absurd (accessFault_of_opCheck_read hr raised) hc
  · rintro (⟨rfl, rfl⟩ | ⟨rfl, check⟩ | ⟨h, rfl, check⟩ | ⟨f, v, rfl, check⟩)
    · rfl
    · exact check
    · exact check
    · exact (opCheck_wrf s f v).trans check

section
variable {s : State} {D : Decoded}

theorem decodedFault_eq_bufferTooSmall : decodedFault s D = some .bufferTooSmall ↔
    (D = .op .pack ∧ s.bufLen.val < 20) ∨
    ∃ h, D = .op (.cksum h) ∧ 5 ≤ h.toNat ∧ s.bufLen.val < 4 * h.toNat := by
  rw [decodedFault_eq_some_iff (by decide)]
  simp [State.checkPack_eq_some, State.checkCksum_eq_some, checkField_eq_some]

theorem decodedFault_eq_badHeaderLength : decodedFault s D = some .badHeaderLength ↔
    ∃ h, D = .op (.cksum h) ∧ h.toNat < 5 := by
  rw [decodedFault_eq_some_iff (by decide)]
  simp [State.checkPack_eq_some, State.checkCksum_eq_some, checkField_eq_some]

theorem decodedFault_eq_illegalCommand : decodedFault s D = some .illegalCommand ↔ D = .fault .illegalCommand := by
  rw [decodedFault_eq_some_iff (by decide)]
  simp [State.checkPack_eq_some, State.checkCksum_eq_some, checkField_eq_some]

theorem decodedFault_eq_fieldRange : decodedFault s D = some .fieldRange ↔
    ∃ f v, D = .op (.wrf f v) ∧ 2 ^ fieldWidth f ≤ v.toNat := by
  rw [decodedFault_eq_some_iff (by decide)]
  simp [State.checkPack_eq_some, State.checkCksum_eq_some, checkField_eq_some]

end

/-- The values too large for the field register at an offset, by its width (R51, R171). -/
theorem exists_fieldOffset_wide_iff {off : HostOffset} {n : Nat} (hn : n < 2 ^ 32) :
    (∃ f, off = fieldOffset f ∧ 2 ^ fieldWidth f ≤ n) ↔
      (off = 0x20 ∨ off = 0x24) ∧ 2 ^ 4 ≤ n ∨
      (off = 0x28 ∨ off = 0x2C) ∧ 2 ^ 16 ≤ n ∨
      (off = 0x30 ∨ off = 0x34) ∧ 2 ^ 8 ≤ n := by
  constructor
  · rintro ⟨f, rfl, wide⟩
    cases f with
    | ver => exact .inl ⟨.inl rfl, wide⟩
    | ihl => exact .inl ⟨.inr rfl, wide⟩
    | tlen => exact .inr (.inl ⟨.inl rfl, wide⟩)
    | id => exact .inr (.inl ⟨.inr rfl, wide⟩)
    | ttl => exact .inr (.inr ⟨.inl rfl, wide⟩)
    | proto => exact .inr (.inr ⟨.inr rfl, wide⟩)
    | src => exact absurd hn (Nat.not_lt.mpr wide)
    | dst => exact absurd hn (Nat.not_lt.mpr wide)
  · rintro (⟨rfl | rfl, wide⟩ | ⟨rfl | rfl, wide⟩ | ⟨rfl | rfl, wide⟩)
    · exact ⟨.ver, rfl, wide⟩
    · exact ⟨.ihl, rfl, wide⟩
    · exact ⟨.tlen, rfl, wide⟩
    · exact ⟨.id, rfl, wide⟩
    · exact ⟨.ttl, rfl, wide⟩
    · exact ⟨.proto, rfl, wide⟩

/-! ### The causes of each fault (R211 to R213, R215) -/

/-- Settles O19: the decoder raises it, on data that is no command word. -/
theorem illegalCommandCauses : Obligations.IllegalCommandCauses := by
  intro s T rest ok hs
  refine step_latches_iff (c := .illegalCommand) ok hs ?_
  rw [decodedFault_eq_illegalCommand, decodeTransaction_eq_illegalCommand, decodeCommand_eq_illegalCommand]

/-- Settles O20: `WRF` raises it, at the offset of a register narrower than the data. -/
theorem fieldRangeCauses : Obligations.FieldRangeCauses := by
  intro s T rest ok hs
  refine step_latches_iff (c := .fieldRange) ok hs ?_
  rw [decodedFault_eq_fieldRange, ← exists_fieldOffset_wide_iff (splitWord T).data.isLt]
  simp only [decodeTransaction_eq_wrf, and_assoc, exists_and_left, exists_eq_left']

/-- Settles O21: `PACK` and `CKSUM` raise it, each by its own check of `BUF_LEN`. -/
theorem bufferTooSmallCauses : Obligations.BufferTooSmallCauses := by
  intro s T rest ok hs
  refine step_latches_iff (c := .bufferTooSmall) ok hs ?_
  rw [decodedFault_eq_bufferTooSmall, decodeTransaction_eq_pack,
    exists_decodeTransaction_eq_cksum fun h => 5 ≤ h ∧ s.bufLen.val < 4 * h]
  simp only [and_or_left, and_assoc]

/-- Settles O22: `CKSUM` raises it, by the first of its two tests. -/
theorem badHeaderLengthCauses : Obligations.BadHeaderLengthCauses := by
  intro s T rest ok hs
  refine step_latches_iff (c := .badHeaderLength) ok hs ?_
  exact decodedFault_eq_badHeaderLength.trans (exists_decodeTransaction_eq_cksum (· < 5))

/-! ### The causes of `AccessFault` (R214) -/

/-- The word32 registers the address map gives to a direction (R51). -/
def RegisterAt : Dir → Nat → Prop
  | .read, n => n = 4 ∨ n = 8 ∨ n = 0xC ∨ (0x20 ≤ n ∧ n ≤ 0x3C)
  | .write, n => n = 0 ∨ (0x20 ≤ n ∧ n ≤ 0x3C)

/-- A command raises no `AccessFault` (R211 to R213). -/
theorem decodedFault_decodeCommand_ne (s : State) (x : Word32) :
    decodedFault s (decodeCommand x) ≠ some .accessFault := by
  unfold decodeCommand
  split_ifs <;> simp [decodedFault, opCheck, FaultCode.ofDecode, State.checkPack_eq_some, State.checkCksum_eq_some]

/-- `RDF` makes no check (R180). -/
theorem opCheck_rdf (s : State) (f : Field) : opCheck s (.rdf f) = none := by cases f <;> rfl

/-- The register window refuses what is no register for the direction (R51, R214). -/
theorem decodedFault_decodeRegister (s : State) (t : Transaction) :
    decodedFault s (decodeRegister t) = some .accessFault ↔ ¬ RegisterAt t.dir t.off.toNat := by
  have refused : decodedFault s (.fault .accessFault) = some .accessFault := rfl
  have status (i : Instr) (h : opCheck s i = none) : decodedFault s (.op i) ≠ some .accessFault := by
    simp [decodedFault, h]
  have wrf (f : Field) (v : Word32) : decodedFault s (.op (.wrf f v)) ≠ some .accessFault := by
    simp [decodedFault, opCheck_wrf, checkField_eq_some]
  obtain ⟨d, z, off, x⟩ := t
  simp only [decodeRegister, ← BitVec.toNat_inj (x := off), BitVec.reduceToNat]
  cases d with
  | read =>
    simp only [readOnly, RegisterAt]
    split_ifs
    · exact iff_of_true refused (by omega)
    · exact iff_of_false (status _ rfl) (by omega)
    · exact iff_of_false (status _ rfl) (by omega)
    · exact iff_of_false (status _ rfl) (by omega)
    · exact iff_of_false (status _ (opCheck_rdf s _)) (by omega)
    · exact iff_of_true refused (by omega)
  | write =>
    simp only [readOnly, RegisterAt]
    split_ifs
    · exact iff_of_false (decodedFault_decodeCommand_ne s x) (by omega)
    · exact iff_of_true refused (by omega)
    · exact iff_of_true refused (by omega)
    · exact iff_of_true refused (by omega)
    · exact iff_of_false (wrf _ x) (by omega)
    · exact iff_of_true refused (by omega)

/-- An octet access to the buffer window raises the fault of its check of the index (R192, R193). -/
theorem decodedFault_decodeBuffer_octet (s : State) (d : Dir) (off : HostOffset) (x : Word32) :
    decodedFault s (decodeBuffer ⟨d, .octet, off, x⟩) = s.checkOctet (off.extractLsb' 0 16) := by
  cases d <;> rfl

/-- A word32 access to the buffer window raises the fault of its check of the index, whether the decoder or the
operation finds it (R194, R195). -/
theorem decodedFault_decodeBuffer_word32 (s : State) (d : Dir) (off : HostOffset) (x : Word32) :
    decodedFault s (decodeBuffer ⟨d, .word32, off, x⟩) = s.checkWord (off.extractLsb' 0 16) := by
  by_cases aligned : (off.extractLsb' 0 16).extractLsb' 0 2 = 0
  · cases d <;> simp only [decodeBuffer, aligned, ne_eq, not_true_eq_false, if_false] <;> rfl
  · have misaligned : (off.extractLsb' 0 16).toNat % 4 ≠ 0 := by
      simpa [aligned4] using mt (aligned4_iff _).mp aligned
    rw [State.checkWord_of_not_fits (.inl misaligned)]
    cases d <;> simp only [decodeBuffer, aligned, ne_eq, not_false_eq_true, if_true] <;> rfl

/-- The buffer window refuses an octet outside `BUF`, and a word32 that is misaligned or not wholly inside (R214). -/
theorem decodedFault_decodeBuffer (s : State) {t : Transaction} (window : 0x10000 ≤ t.off.toNat) :
    decodedFault s (decodeBuffer t) = some .accessFault ↔
      (t.size = .octet ∧ s.bufLen.val ≤ t.off.toNat - 0x10000) ∨
      (t.size = .word32 ∧ (t.off.toNat % 4 ≠ 0 ∨ s.bufLen.val < t.off.toNat - 0x10000 + 4)) := by
  obtain ⟨d, z, off, x⟩ := t
  dsimp only at window ⊢
  have index : (off.extractLsb' 0 16).toNat = off.toNat - 0x10000 := by
    rw [toNat_extractLsb']
    omega
  have multiple : (off.toNat - 0x10000) % 4 = off.toNat % 4 := by omega
  cases z with
  | octet => simp [decodedFault_decodeBuffer_octet, State.checkOctet_eq_some, index]
  | word32 => simp [decodedFault_decodeBuffer_word32, State.checkWord_eq_some, index, multiple]

/-- The complete list of causes of `AccessFault`, the two windows apart (R214). -/
theorem decodedFault_eq_accessFault (s : State) (t : Transaction) :
    decodedFault s (decodeTransaction t) = some .accessFault ↔
      (t.off.toNat < 0x10000 ∧ (t.size = .octet ∨ t.off.toNat % 4 ≠ 0 ∨ ¬ RegisterAt t.dir t.off.toNat)) ∨
      (0x10000 ≤ t.off.toNat ∧
        ((t.size = .octet ∧ s.bufLen.val ≤ t.off.toNat - 0x10000) ∨
         (t.size = .word32 ∧ (t.off.toNat % 4 ≠ 0 ∨ s.bufLen.val < t.off.toNat - 0x10000 + 4)))) := by
  rcases decodeTransaction_cases t with ⟨buffer, e⟩ | ⟨register, refused, e⟩ | ⟨register, word, aligned, e⟩ <;> rw [e]
  · simp [decodedFault_decodeBuffer s buffer, buffer, Nat.not_lt.mpr buffer]
  · refine iff_of_true rfl (.inl ⟨register, ?_⟩)
    exact refused.imp_right .inl
  · simp [decodedFault_decodeRegister, register, word, aligned, Nat.not_le.mpr register]

/-- Settles O18: the list of R214 gives the same accesses, (a) to (e) in the register window and (c), (f) and (g) in the
buffer window. -/
theorem accessFaultCauses : Obligations.AccessFaultCauses := by
  intro s T rest ok hs
  refine step_latches_iff (c := .accessFault) ok hs ?_
  rw [decodedFault_eq_accessFault]
  obtain ⟨d, z, off, x⟩ := splitWord T
  have ho := off.isLt
  cases d <;> cases z <;> simp [RegisterAt] <;> omega

end Sys2Proof.Machine
end

section
/-! PROOFS. Reset, and the finished datagram: what a run of operations that all succeed does to the data of the block,
and that after `PACK` and `CKSUM` none of a reset's draws is left in the datagram. -/

namespace Sys2Proof.Machine

/-! ### The reset event and the datagram built (R240, R261) -/

/-- Settles O8: the step on a reset event is the reset event, whose state is the reset state with the next draws. -/
theorem resetEventGivesTheResetState : Obligations.ResetEventGivesTheResetState := by
  intro s rest hs
  rcases step_cases s with ⟨hs', -⟩ | ⟨_, hs', e⟩ | ⟨_, _, _, hs', -⟩ | ⟨_, _, _, hs', -⟩ <;>
    rw [hs] at hs' <;> cases hs'
  exact e

/-- Settles O51: the header reads back as the registers, whose values are valid and fit, and its checksum verifies. -/
theorem validValuesMakeADatagram : Obligations.ValidValuesMakeADatagram := by
  rintro s ok wf ⟨-, header, total⟩ ⟨version, h5, covers⟩
  obtain ⟨t, et, u, eu, parse, verifies, -, -, err, -⟩ := buildMakesASealedHeader s ok wf h5 header
  obtain ⟨t', et', lenT, -⟩ := exec_keeps_extent .pack s
  obtain ⟨u', eu', lenU, -⟩ := exec_keeps_extent (.cksum s.fields.ihl) t
  cases et.symm.trans et'
  cases eu.symm.trans eu'
  refine ⟨t, et, u, eu, err, ?_⟩
  rw [Buffer.IsDatagram, parse, lenU, lenT]
  exact ⟨version, h5, covers, total, verifies⟩

/-! ### Blocks that hold the same data (R217) -/

theorem SameData.trans {s t u : State} (h : SameData s t) (k : SameData t u) : SameData s u := by
  obtain ⟨hf, hb, hc, hl⟩ := h
  obtain ⟨kf, kb, kc, kl⟩ := k
  exact ⟨kf.trans hf, kb.trans hb, kc.trans hc, kl.trans hl⟩

theorem SameData.bufLen_eq {s t : State} (h : SameData s t) : t.bufLen = s.bufLen := by
  obtain ⟨-, -, -, len⟩ := h
  exact len

/-! ### The effect of an operation that succeeds (R170) -/

/-- The whole effect of an operation on the data of the block: a read operation has none (R170). -/
def State.effect (s : State) : Instr → State
  | .pack => s.packed
  | .cksum h => s.sealed h
  | .wrfVer v => { s with fields := s.fields.write .ver v }
  | .wrfIhl v => { s with fields := s.fields.write .ihl v }
  | .wrfTlen v => { s with fields := s.fields.write .tlen v }
  | .wrfId v => { s with fields := s.fields.write .id v }
  | .wrfTtl v => { s with fields := s.fields.write .ttl v }
  | .wrfProto v => { s with fields := s.fields.write .proto v }
  | .wrfSrc v => { s with fields := s.fields.write .src v }
  | .wrfDst v => { s with fields := s.fields.write .dst v }
  | .stb i v => { s with buf := s.buf.write8 i.toNat v }
  | .stw i v => { s with buf := s.buf.write32 i.toNat v }
  | _ => s

@[simp] theorem State.effect_pack (s : State) : s.effect .pack = s.packed := rfl

@[simp] theorem State.effect_cksum (s : State) (h : BitVec 4) : s.effect (.cksum h) = s.sealed h := rfl

@[simp] theorem State.effect_wrf (s : State) (f : Field) (v : Word32) :
    s.effect (.wrf f v) = { s with fields := s.fields.write f v } := by cases f <;> rfl

@[simp] theorem State.effect_stb (s : State) (a : BufIndex) (v : Octet) :
    s.effect (.stb a v) = { s with buf := s.buf.write8 a.toNat v } := rfl

@[simp] theorem State.effect_stw (s : State) (a : BufIndex) (v : Word32) :
    s.effect (.stw a v) = { s with buf := s.buf.write32 a.toNat v } := rfl

@[simp] theorem State.effect_of_isRead {i : Instr} (hr : i.isRead = true) (s : State) : s.effect i = s := by
  cases i <;> cases hr <;> rfl

/-- In an unfaulted block an operation whose check passes has its whole effect and answers `ok` (R170). -/
theorem exec_of_opCheck_none {i : Instr} {s : State} (ok : s.err = 0) (check : opCheck s i = none) :
    ∃ v, exec i s = .next ((s.effect i).respond true v) := by
  rcases write_or_read i with rfl | ⟨h, rfl⟩ | ⟨f, v, rfl⟩ | ⟨a, v, rfl⟩ | ⟨a, v, rfl⟩ | hr
  · exact ⟨_, exec_pack_of_fits ok (State.checkPack_eq_none.mp check)⟩
  · obtain ⟨h5, hl⟩ := State.checkCksum_eq_none.mp check
    exact ⟨_, exec_cksum_of_fits ok h5 hl⟩
  · rw [opCheck_wrf] at check
    rw [exec_wrf, State.writeField_of_fits ok (checkField_eq_none.mp check), State.effect_wrf]
    exact ⟨0, rfl⟩
  · exact ⟨_, exec_stb_of_lt v ok (State.checkOctet_eq_none.mp check)⟩
  · rw [exec, execStw, show s.checkWord a = none from check, State.performWrite_none ok]
    exact ⟨0, rfl⟩
  · rw [exec_read hr, check, State.effect_of_isRead hr]
    exact ⟨_, rfl⟩

/-- The effect depends on the data of the block only. -/
theorem State.effect_sameData {s u : State} (h : SameData s u) (i : Instr) : SameData (s.effect i) (u.effect i) := by
  cases s
  cases u
  obtain ⟨hf, hb, hc, hl⟩ := h
  cases hf
  cases hb
  cases hc
  cases hl
  cases i <;> exact ⟨rfl, rfl, rfl, rfl⟩

@[simp] theorem State.effect_err (s : State) (i : Instr) : (s.effect i).err = s.err := by cases i <;> rfl

@[simp] theorem State.effect_bufLen (s : State) (i : Instr) : (s.effect i).bufLen = s.bufLen := by cases i <;> rfl

@[simp] theorem State.effect_script (s : State) (i : Instr) : (s.effect i).script = s.script := by cases i <;> rfl

@[simp] theorem State.effect_responses (s : State) (i : Instr) : (s.effect i).responses = s.responses := by
  cases i <;> rfl

/-- The effects of a list of operations, one after another. -/
def State.effects (s : State) : List Instr → State
  | [] => s
  | i :: ops => (s.effect i).effects ops

@[simp] theorem State.effects_nil (s : State) : s.effects [] = s := rfl

@[simp] theorem State.effects_cons (s : State) (i : Instr) (ops : List Instr) :
    s.effects (i :: ops) = (s.effect i).effects ops := rfl

@[simp] theorem State.effects_append (s : State) (before after : List Instr) :
    s.effects (before ++ after) = (s.effects before).effects after := by
  induction before generalizing s with
  | nil => rfl
  | cons i before ih => exact ih (s.effect i)

/-- The effects depend on the data of the block only. -/
theorem State.effects_sameData {s u : State} (h : SameData s u) (ops : List Instr) :
    SameData (s.effects ops) (u.effects ops) := by
  induction ops generalizing s u with
  | nil => exact h
  | cons i ops ih => exact ih (State.effect_sameData h i)

/-! ### The run of a script (R36, R260) -/

/-- A run begins with its first step. -/
theorem run_succ_of_step {s u : State} (e : step s = .next u) (k : Nat) :
    Host.Core.run core (k + 1) s = Host.Core.run core k u := by
  have e' : core.step s = .next u := e
  simp only [Host.Core.run, e']

/-- A script of operations that is not empty begins with a transaction that decodes to the first of them. -/
theorem exists_of_scriptOps_cons {e : HostEvent} {rest : List HostEvent} {ops : List Instr}
    (h : scriptOps (e :: rest) = some ops) :
    ∃ T i later, e = .transaction T ∧ decode T = .op i ∧ scriptOps rest = some later ∧ ops = i :: later := by
  cases e with
  | reset => cases h
  | transaction T =>
    rw [scriptOps] at h
    split at h
    · next i later hd hr => exact ⟨T, i, later, rfl, hd, hr, (Option.some.inj h).symm⟩
    · cases h

/-- A run without a reset takes no response back (R260). -/
theorem run_keeps_responses {script : List HostEvent} {ops : List Instr} (h : scriptOps script = some ops) {s : State}
    (hs : s.script = script) :
    Completes (Host.Core.run core script.length s) fun t => s.responses ⊆ t.responses := by
  induction script generalizing s ops with
  | nil => exact ⟨s, rfl, List.Subset.refl _⟩
  | cons e rest ih =>
    obtain ⟨T, i, later, rfl, -, hrest, -⟩ := exists_of_scriptOps_cons h
    obtain ⟨u, eu, script, answered⟩ := everyTransactionIsAnsweredOnce s
    obtain ⟨r, responses, -⟩ := answered T rest hs
    obtain ⟨t, et, kept⟩ := ih hrest (s := u) (by rw [script, hs, List.tail_cons])
    refine ⟨t, (run_succ_of_step eu _).trans et, ?_⟩
    rw [responses, List.append_subset] at kept
    exact kept.1

/-- Everything the step on an operation can do to an unfaulted block: the check passes, the block has the effect and
answers `ok`; or the check fails, and so does the answer (R170). -/
theorem step_operation_cases {s : State} {T : TransactionWord} {rest : List HostEvent} {i : Instr} (ok : s.err = 0)
    (hs : s.script = .transaction T :: rest) (hd : decode T = .op i) : Completes (step s) fun u => u.script = rest ∧
      ((opCheck s i = none ∧ SameData (s.effect i) u ∧ u.err = 0 ∧ ∃ v, u.responses = s.responses ++ [⟨true, v⟩]) ∨
       (opCheck s i ≠ none ∧ ¬ u.NoFault)) := by
  have e := stepRunsTheDecodedInstruction s T rest i hs hd
  have same : opCheck { s with script := rest } i = opCheck s i := opCheck_congr rfl i
  cases check : opCheck s i with
  | some c =>
    exact ⟨_, e.trans (exec_of_opCheck_some (same.trans check) (.inr ok)), rfl,
      .inr ⟨nofun, fun noFault => nomatch noFault ⟨false, 0⟩ (by simp)⟩⟩
  | none =>
    obtain ⟨v, e'⟩ := exec_of_opCheck_none (s := { s with script := rest }) ok (same.trans check)
    have data : SameData (s.effect i) (State.effect { s with script := rest } i) :=
      State.effect_sameData (s := s) (u := { s with script := rest }) ⟨rfl, rfl, rfl, rfl⟩ i
    exact ⟨_, e.trans e', by simp, .inl ⟨rfl, data, by simpa using ok, v, by simp⟩⟩

/-- Everything the run of a script of operations can do to an unfaulted block: every check passes, the block has the
effects of the operations and every answer is `ok`; or a check fails, and so does an answer. -/
theorem run_cases {script : List HostEvent} {ops : List Instr} (h : scriptOps script = some ops) {s : State}
    (hs : s.script = script) (ok : s.err = 0) :
    Completes (Host.Core.run core script.length s) fun t =>
      ((∀ i ∈ ops, opCheck s i = none) ∧ SameData (s.effects ops) t ∧ (s.NoFault → t.NoFault)) ∨
      ((∃ i ∈ ops, opCheck s i ≠ none) ∧ ¬ t.NoFault) := by
  induction script generalizing s ops with
  | nil =>
    cases h
    exact ⟨s, rfl, .inl ⟨by simp, ⟨rfl, rfl, rfl, rfl⟩, id⟩⟩
  | cons e rest ih =>
    obtain ⟨T, i, later, rfl, hd, hrest, rfl⟩ := exists_of_scriptOps_cons h
    obtain ⟨u, eu, script, ⟨check, data, ok', v, responses⟩ | ⟨check, faulted⟩⟩ := step_operation_cases ok hs hd
    · have len : u.bufLen = s.bufLen := by rw [data.bufLen_eq, State.effect_bufLen]
      obtain ⟨t, et, cases⟩ := ih hrest script ok'
      refine ⟨t, (run_succ_of_step eu _).trans et, ?_⟩
      simp only [opCheck_congr len] at cases
      rcases cases with ⟨pass, effects, noFault⟩ | ⟨⟨j, hj, fails⟩, faulted⟩
      · refine .inl ⟨by simpa [check] using pass, (State.effects_sameData data later).trans effects,
          fun clean => noFault ?_⟩
        simpa [State.NoFault, responses, or_imp, forall_and] using clean
      · exact .inr ⟨⟨j, by simp [hj], fails⟩, faulted⟩
    · obtain ⟨t, et, kept⟩ := run_keeps_responses hrest script
      exact ⟨t, (run_succ_of_step eu _).trans et,
        .inr ⟨⟨i, by simp, check⟩, fun noFault => faulted fun r hr => noFault r (kept hr)⟩⟩

/-! ### What two blocks agree on after the same operations (R244) -/

theorem Instr.wrf_inj {f g : Field} {v x : Word32} (h : Instr.wrf f v = .wrf g x) : f = g ∧ v = x := by
  cases f <;> cases g <;> cases h <;> exact ⟨rfl, rfl⟩

/-- What a register holds after it is written depends on the value written only (R171). -/
theorem Fields.read_write_congr (r q : Fields) (f : Field) (v : Word32) : (q.write f v).read f = (r.write f v).read f := by
  cases f <;> rfl

/-- Only `WRF` writes a register (R21). -/
theorem State.fields_effect {i : Instr} (notWrf : ∀ f v, i ≠ .wrf f v) (s : State) :
    (s.effect i).fields = s.fields := by
  rcases write_or_read i with rfl | ⟨h, rfl⟩ | ⟨f, v, rfl⟩ | ⟨a, v, rfl⟩ | ⟨a, v, rfl⟩ | hr
  · rfl
  · rfl
  · exact absurd rfl (notWrf f v)
  · rfl
  · rfl
  · rw [State.effect_of_isRead hr]

/-- After an operation two blocks agree on a register that it wrote, or that they agreed on. -/
theorem State.read_effect_congr {s u : State} {f : Field} {i : Instr}
    (h : u.fields.read f = s.fields.read f ∨ ∃ v, .wrf f v = i) :
    (u.effect i).fields.read f = (s.effect i).fields.read f := by
  by_cases wrf : ∃ g x, i = .wrf g x
  · obtain ⟨g, x, rfl⟩ := wrf
    simp only [State.effect_wrf]
    rcases eq_or_ne f g with rfl | ne
    · exact Fields.read_write_congr _ _ f x
    · rw [Fields.read_write_of_ne _ x ne, Fields.read_write_of_ne _ x ne]
      exact h.resolve_right fun ⟨v, e⟩ => ne (Instr.wrf_inj e).1
  · have notWrf (g : Field) (x : Word32) : i ≠ .wrf g x := fun e => wrf ⟨g, x, e⟩
    rw [State.fields_effect notWrf, State.fields_effect notWrf]
    exact h.resolve_right fun ⟨v, e⟩ => notWrf f v e.symm

/-- After the same operations two blocks agree on a register that one of them wrote, or that they agreed on. -/
theorem State.read_effects_congr {s u : State} {f : Field} {ops : List Instr}
    (h : u.fields.read f = s.fields.read f ∨ ∃ v, .wrf f v ∈ ops) :
    (u.effects ops).fields.read f = (s.effects ops).fields.read f := by
  induction ops generalizing s u with
  | nil => simpa using h
  | cons i ops ih =>
    refine ih ?_
    rcases h with agree | ⟨v, hv⟩
    · exact .inl (State.read_effect_congr (.inl agree))
    · rcases List.mem_cons.mp hv with rfl | later
      · exact .inl (State.read_effect_congr (.inr ⟨v, rfl⟩))
      · exact .inr ⟨v, later⟩

/-- After operations that write all eight registers two blocks hold the same registers (R251). -/
theorem State.fields_effects_congr (s u : State) {ops : List Instr} (written : ∀ f, ∃ v, .wrf f v ∈ ops) :
    (u.effects ops).fields = (s.effects ops).fields :=
  Fields.ext_read fun f => State.read_effects_congr (.inr (written f))

/-- Only `CKSUM` writes `CSUM` (R32). -/
theorem State.csum_effects {ops : List Instr} (noCksum : ∀ h, .cksum h ∉ ops) (s : State) :
    (s.effects ops).csum = s.csum := by
  induction ops generalizing s with
  | nil => rfl
  | cons i ops ih =>
    rw [State.effects_cons, ih fun h hh => noCksum h (List.mem_cons_of_mem i hh)]
    cases i
    case cksum h => exact absurd List.mem_cons_self (noCksum h)
    all_goals rfl

/-- After the same write two buffers agree on an octet that it names, or that they agreed on, if both have the octet
or neither does. -/
theorem Buffer.octet?_writeAll_congr {b c : Buffer} {w : List (Nat × Octet)} {a : Nat}
    (exist : (c.octet? a).isSome = (b.octet? a).isSome)
    (h : c.octet? a = b.octet? a ∨ (Buffer.octet? w a).isSome = true) :
    (c.writeAll w).octet? a = (b.writeAll w).octet? a := by
  rw [Buffer.octet?_writeAll, Buffer.octet?_writeAll]
  rcases h with agree | named
  · rw [agree]
  · obtain ⟨x, hx⟩ := Option.isSome_iff_exists.mp named
    cases hb : b.octet? a <;> cases hc : c.octet? a <;> simp_all

/-- The operation may write octet `a` by a command, not by a store: `PACK` the header, `CKSUM` its octets 10 and 11
(R113, R146). -/
def commandWrites (a : Nat) (i : Instr) : Prop :=
  (i = .pack ∧ a < 20) ∨ ((∃ h, i = .cksum h) ∧ (a = 10 ∨ a = 11))

/-- A two-octet write neither makes nor removes an octet (R44 (c)). -/
@[simp] theorem Buffer.isSome_octet?_write16 (b : Buffer) (i : Nat) (v : Word16) (a : Nat) :
    ((b.write16 i v).octet? a).isSome = (b.octet? a).isSome := b.isSome_octet?_writeAll _ a

/-- No operation changes which octets exist (R44 (c)). -/
@[simp] theorem State.isSome_octet?_effect (s : State) (i : Instr) (a : Nat) :
    ((s.effect i).buf.octet? a).isSome = (s.buf.octet? a).isSome := by
  rcases write_or_read i with rfl | ⟨h, rfl⟩ | ⟨f, v, rfl⟩ | ⟨k, v, rfl⟩ | ⟨k, v, rfl⟩ | hr
  · exact s.buf.isSome_octet?_writeAll _ a
  · exact s.buf.isSome_octet?_writeAll _ a
  · rw [State.effect_wrf]
  · exact s.buf.isSome_octet?_writeAll _ a
  · exact s.buf.isSome_octet?_writeAll _ a
  · rw [State.effect_of_isRead hr]

/-- No operations change which octets exist (R44 (c)). -/
@[simp] theorem State.isSome_octet?_effects (s : State) (ops : List Instr) (a : Nat) :
    ((s.effects ops).buf.octet? a).isSome = (s.buf.octet? a).isSome := by
  induction ops generalizing s with
  | nil => rfl
  | cons i ops ih => exact (ih (s.effect i)).trans (s.isSome_octet?_effect i a)

theorem storesOctet_wrf (a : Nat) (f : Field) (v : Word32) : storesOctet a (.wrf f v) = false := by cases f <;> rfl

theorem storesOctet_of_isRead {i : Instr} (hr : i.isRead = true) (a : Nat) : storesOctet a i = false := by
  cases i <;> cases hr <;> rfl

/-- After an operation two blocks agree on an octet that it stored, or that they agreed on, unless it is a command that
writes the octet. -/
theorem State.octet?_effect_congr {s u : State} {i : Instr} {a : Nat}
    (exist : (u.buf.octet? a).isSome = (s.buf.octet? a).isSome) (noCommand : ¬ commandWrites a i)
    (h : u.buf.octet? a = s.buf.octet? a ∨ storesOctet a i = true) :
    (u.effect i).buf.octet? a = (s.effect i).buf.octet? a := by
  rcases write_or_read i with rfl | ⟨x, rfl⟩ | ⟨f, v, rfl⟩ | ⟨k, v, rfl⟩ | ⟨k, v, rfl⟩ | hr
  · have tail : 20 ≤ a := Nat.not_lt.mp fun header => noCommand (.inl ⟨rfl, header⟩)
    simp only [State.effect_pack, State.packed_buf,
      Buffer.octet?_writeAll_of_none _ (octet?_headerImage_of_ge _ tail)]
    exact h.resolve_right nofun
  · have other : ¬ (a = 10 ∨ a = 11) := fun field => noCommand (.inr ⟨⟨x, rfl⟩, field⟩)
    rw [not_or] at other
    obtain ⟨h₁₀, h₁₁⟩ := other
    rw [State.effect_cksum, State.effect_cksum, State.octet?_sealed_of_ne _ x h₁₀ h₁₁,
      State.octet?_sealed_of_ne _ x h₁₀ h₁₁]
    exact h.resolve_right nofun
  · rw [State.effect_wrf, State.effect_wrf]
    exact h.resolve_right (by rw [storesOctet_wrf]; nofun)
  · refine Buffer.octet?_writeAll_congr exist (h.imp_right fun stored => (Buffer.isSome_octet?_iff_mem _ a).mpr ?_)
    simpa [storesOctet] using stored
  · refine Buffer.octet?_writeAll_congr exist (h.imp_right fun stored => (Buffer.isSome_octet?_iff_mem _ a).mpr ?_)
    simp only [storesOctet, Bool.and_eq_true, decide_eq_true_eq] at stored
    simp only [List.map_cons, List.map_nil, List.mem_cons, List.not_mem_nil, or_false]
    omega
  · rw [State.effect_of_isRead hr, State.effect_of_isRead hr]
    exact h.resolve_right (by rw [storesOctet_of_isRead hr]; nofun)

/-- After the same operations two blocks agree on an octet that one of them stored, or that they agreed on, if no command
among them writes the octet. -/
theorem State.octet?_effects_congr {s u : State} {ops : List Instr} {a : Nat}
    (exist : (u.buf.octet? a).isSome = (s.buf.octet? a).isSome) (noCommand : ∀ i ∈ ops, ¬ commandWrites a i)
    (h : u.buf.octet? a = s.buf.octet? a ∨ ∃ i ∈ ops, storesOctet a i = true) :
    (u.effects ops).buf.octet? a = (s.effects ops).buf.octet? a := by
  induction ops generalizing s u with
  | nil => simpa using h
  | cons i ops ih =>
    have head := noCommand i List.mem_cons_self
    refine ih (by simpa using exist) (fun j hj => noCommand j (List.mem_cons_of_mem i hj)) ?_
    rcases h with agree | ⟨j, hj, stored⟩
    · exact .inl (State.octet?_effect_congr exist head (.inl agree))
    · rcases List.mem_cons.mp hj with rfl | later
      · exact .inl (State.octet?_effect_congr exist head (.inr stored))
      · exact .inr ⟨j, later, stored⟩

/-! ### The finished datagram (R244, R245, R261) -/

theorem not_commandWrites_of_ge {a : Nat} (tail : 20 ≤ a) (i : Instr) : ¬ commandWrites a i := by
  rintro (⟨-, header⟩ | ⟨-, field⟩) <;> omega

/-- The last `PACK` comes before the last `CKSUM`, if no `PACK` comes after that. -/
theorem exists_pack_before_cksum {before after before' after' : List Instr} {h : BitVec 4}
    (e : before ++ .pack :: after = before' ++ .cksum h :: after') (notLater : .pack ∉ after') :
    ∃ mid, before' = before ++ .pack :: mid ∧ after = mid ++ .cksum h :: after' := by
  rcases List.append_eq_append_iff.mp e with ⟨mid, rfl, e'⟩ | ⟨mid, rfl, e'⟩
  · cases mid with
    | nil => cases e'
    | cons i mid =>
      cases e'
      exact ⟨mid, rfl, rfl⟩
  · cases mid with
    | nil => cases e'
    | cons i mid =>
      cases e'
      simp at notLater

/-- With the registers written and the header packed after that, two blocks agree on the header but for its checksum,
whatever follows but another `PACK` (R244 (a)). -/
theorem State.octet?_header_congr {s u : State} {before mid : List Instr} {a : Nat}
    (exist : (u.buf.octet? a).isSome = (s.buf.octet? a).isSome) (written : ∀ f, ∃ v, .wrf f v ∈ before)
    (noPack : .pack ∉ mid) (ha : a < 20) (h₁₀ : a ≠ 10) (h₁₁ : a ≠ 11) :
    (u.effects (before ++ .pack :: mid)).buf.octet? a = (s.effects (before ++ .pack :: mid)).buf.octet? a := by
  simp only [State.effects_append, State.effects_cons, State.effect_pack]
  refine State.octet?_effects_congr (by simpa using exist) ?_ (.inl ?_)
  · rintro i hi (⟨rfl, -⟩ | ⟨-, field⟩)
    · exact noPack hi
    · omega
  · rw [State.packed_buf, State.packed_buf, State.fields_effects_congr s u written]
    exact Buffer.octet?_writeAll_congr (by simpa using exist) (.inr (isSome_octet?_headerImage _ ha))

/-- Two blocks that agree on the span of `CKSUM h` but for its octets 10 and 11 agree on all of it afterwards (R153). -/
theorem State.octet?_sealed_congr {s u : State} {h : BitVec 4}
    (exist : ∀ a, (u.buf.octet? a).isSome = (s.buf.octet? a).isSome)
    (span : ∀ a, a < 4 * h.toNat → a ≠ 10 → a ≠ 11 → u.buf.octet? a = s.buf.octet? a) {a : Nat}
    (ha : a < 4 * h.toNat) : (u.sealed h).buf.octet? a = (s.sealed h).buf.octet? a := by
  rw [State.sealed_buf, State.sealed_buf, State.checksum_congr span]
  refine Buffer.octet?_writeAll_congr (exist a) ?_
  by_cases field : a = 10 ∨ a = 11
  · exact .inr ((Buffer.isSome_octet?_iff_mem _ a).mpr (by simpa using field))
  · rw [not_or] at field
    exact .inl (span a ha field.1 field.2)

/-- The octets that `Sealed` speaks of, but for the checksum field, agree before the last `CKSUM` already: the header is
packed, and an option octet was stored, which was not after it (R244, R245). -/
theorem State.octet?_span_congr {s u : State} {ops before after : List Instr} {h : BitVec 4} {tlen : Nat}
    (exist : ∀ a, (u.buf.octet? a).isSome = (s.buf.octet? a).isSome) (fields : FieldsWritten ops)
    (tail : TailWritten ops tlen) (split : ops = before ++ .cksum h :: after) (noPack : .pack ∉ after)
    (noStore : ∀ n, n < 4 * h.toNat → n ≠ 10 → n ≠ 11 → ∀ i ∈ after, storesOctet n i = false)
    (covers : 4 * h.toNat ≤ tlen) {a : Nat} (ha : a < 4 * h.toNat) (h₁₀ : a ≠ 10) (h₁₁ : a ≠ 11) :
    (u.effects before).buf.octet? a = (s.effects before).buf.octet? a := by
  obtain header | option := Nat.lt_or_ge a 20
  · obtain ⟨first, later, rfl, noPack', written⟩ := fields
    obtain ⟨mid, rfl, rfl⟩ := exists_pack_before_cksum split noPack
    exact State.octet?_header_congr (exist a) written (fun hp => noPack' (List.mem_append_left _ hp)) header h₁₀ h₁₁
  · obtain ⟨i, hi, stored⟩ := tail a option (by omega)
    have hi' : i ∈ before := by
      rw [split, List.mem_append, List.mem_cons] at hi
      rcases hi with hi | rfl | hi
      · exact hi
      · cases stored
      · cases stored.symm.trans (noStore a ha h₁₀ h₁₁ i hi)
    exact State.octet?_effects_congr (exist a) (fun j _ => not_commandWrites_of_ge option j) (.inr ⟨i, hi', stored⟩)

/-- R261 for the effects: two blocks in which the same octets exist, whatever they hold, hold the same registers, `CSUM`
and datagram after operations that write the fields, pack, store the tail and seal. -/
theorem State.effects_datagram_congr {s u : State} {ops : List Instr} {h : BitVec 4} {tlen : Nat}
    (exist : ∀ a, (u.buf.octet? a).isSome = (s.buf.octet? a).isSome) (fields : FieldsWritten ops)
    (tail : TailWritten ops tlen) (sealing : Sealed ops h) (h5 : 5 ≤ h.toNat) (covers : 4 * h.toNat ≤ tlen) :
    (u.effects ops).fields = (s.effects ops).fields ∧ (u.effects ops).csum = (s.effects ops).csum ∧
    ∀ a, a < tlen → (u.effects ops).buf.octet? a = (s.effects ops).buf.octet? a := by
  obtain ⟨before, after, split, noPack, noCksum, noStore⟩ := sealing
  have span (a : Nat) (ha : a < 4 * h.toNat) (h₁₀ : a ≠ 10) (h₁₁ : a ≠ 11) :=
    State.octet?_span_congr exist fields tail split noPack noStore covers ha h₁₀ h₁₁
  have exist' (a : Nat) : ((u.effects before).buf.octet? a).isSome = ((s.effects before).buf.octet? a).isSome := by
    simpa using exist a
  refine ⟨?_, ?_, fun a ha => ?_⟩
  · obtain ⟨first, later, rfl, -, written⟩ := fields
    refine State.fields_effects_congr s u fun f => ?_
    obtain ⟨v, hv⟩ := written f
    exact ⟨v, List.mem_append_left _ hv⟩
  · simp only [split, State.effects_append, State.effects_cons, State.effect_cksum, State.csum_effects noCksum,
      State.sealed_csum]
    exact State.checksum_congr span
  · obtain covered | payload := Nat.lt_or_ge a (4 * h.toNat)
    · simp only [split, State.effects_append, State.effects_cons, State.effect_cksum]
      refine State.octet?_effects_congr (by simpa using exist' a) ?_
        (.inl (State.octet?_sealed_congr exist' span covered))
      rintro i hi (⟨rfl, -⟩ | ⟨⟨x, rfl⟩, -⟩)
      · exact noPack hi
      · exact noCksum x hi
    · exact State.octet?_effects_congr (exist a) (fun i _ => not_commandWrites_of_ge (by omega) i)
        (.inr (tail a (by omega) ha))

/-- Octets of the same index exist in canonical buffers of one length (R44 (c)). -/
theorem Memory.wf.isSome_eq {n : Nat} {b c : Buffer} (hb : Memory.wf n b = true) (hc : Memory.wf n c = true) (a : Nat) :
    (c.octet? a).isSome = (b.octet? a).isSome := by
  rw [Bool.eq_iff_iff, Memory.wf.isSome_iff hb, Memory.wf.isSome_iff hc]

/-- Settles O49: a check looks at `BUF_LEN` only, so both runs succeed and have the effects of one list of operations. -/
theorem finishedDatagramHoldsNoDraw : Obligations.FinishedDatagramHoldsNoDraw := by
  rintro s₁ s₂ t₁ t₂ ops ⟨ok₁, -, wf₁⟩ ⟨ok₂, noResponse, wf₂⟩ len script hops e₁ e₂ noFault fields tail sealing covers
  obtain ⟨t, r₁, cases₁⟩ := run_cases hops rfl ok₁
  obtain ⟨u, r₂, cases₂⟩ := run_cases hops script ok₂
  cases e₁.symm.trans r₁
  cases e₂.symm.trans r₂
  obtain ⟨pass, ⟨hf₁, hb₁, hc₁, -⟩, -⟩ := cases₁.resolve_right fun ⟨_, faulted⟩ => faulted noFault
  obtain ⟨-, ⟨hf₂, hb₂, hc₂, -⟩, clean⟩ := cases₂.resolve_right fun ⟨⟨i, hi, fails⟩, _⟩ =>
    fails ((opCheck_congr len i).trans (pass i hi))
  have h5 : 5 ≤ t₁.fields.ihl.toNat := by
    obtain ⟨before, after, rfl, -⟩ := sealing
    exact (State.checkCksum_eq_none.mp (pass (.cksum t₁.fields.ihl) (by simp))).1
  rw [len] at wf₂
  obtain ⟨hf, hc, hb⟩ := State.effects_datagram_congr (Memory.wf.isSome_eq wf₁ wf₂) fields tail sealing h5 covers
  rw [hf₁, hf₂, hb₁, hb₂, hc₁, hc₂]
  refine ⟨clean (by simp [State.NoFault, noResponse]), hf, hc, ?_⟩
  rwa [hf₁] at hb

end Sys2Proof.Machine
end
